-- ==== Sys2Proof/Word.lean ====
section
/-! DEFINITION. The bit-vector types of the block (R5, R50, R30): every width is fixed by the spec, so the
widths are numerals and no type depends on a parameter. -/

namespace Sys2Proof

/-- An 8-bit value: the width W8 of A, B, C, D, E, H, L, of the byte view of F, of a u8 and of an i8 literal (R5). -/
abbrev Byte := BitVec 8

/-- A 16-bit value: the width W16 of SP, PC, the paired views and a u16 literal (R5). -/
abbrev Word := BitVec 16

/-- One command word (R50: "Every command is one 24-bit word"). -/
abbrev CommandWord := BitVec 24

/-- The identifier of a view at the register port (R30, R61: 4 bits). -/
abbrev ViewId := BitVec 4

end Sys2Proof
end

