-- ==== Sys2Proof/Syntax.lean ====
section
/-! DEFINITION. What can be asked of the block: the register identifiers, the 21 operations with their operands
(30_encoding.md R52: "a sum type of 21 constructors with typed operands"), and the three kinds of request (R70).
The identifier types are the spec's closed sets, so an invalid register cannot be written (R60). -/

namespace Sys2Proof

/-- The registers an 8-bit operation may select (R11, R54): A, B, C, D, E, H, L. F is not among them (R12). -/
inductive R8 where
  | b | c | d | e | h | l | a
  deriving DecidableEq, Repr

/-- The registers a 16-bit operation may select (R55): BC, DE, HL, SP. AF and PC are not among them. -/
inductive R16 where
  | bc | de | hl | sp
  deriving DecidableEq, Repr

/-- The views of the register file that the register port reads and writes (R30), in the order of their identifiers. -/
inductive View where
  | b | c | d | e | h | l | f | a | bc | de | hl | sp | af | pc
  deriving DecidableEq, Repr

/-- The 21 operations (R2, R53), in the order of the opcode map. `v` is a u8 literal (R56), `w` a u16 literal (R57)
and `e` the byte of a signed i8 literal in two's complement (R58). -/
inductive Instr where
  /-- `ld r, v` (R80) -/
  | ld (r : R8) (v : Byte)
  /-- `ldi r, v` (R81) -/
  | ldi (r : R8) (v : Byte)
  /-- `ldd r, v` (R82) -/
  | ldd (r : R8) (v : Byte)
  /-- `ld_u16 rr, w` (R83) -/
  | ldU16 (rr : R16) (w : Word)
  /-- `add v` (R90) -/
  | add (v : Byte)
  /-- `adc v` (R91) -/
  | adc (v : Byte)
  /-- `sub v` (R92) -/
  | sub (v : Byte)
  /-- `sbc v` (R93) -/
  | sbc (v : Byte)
  /-- `and v` (R94) -/
  | and (v : Byte)
  /-- `xor v` (R95) -/
  | xor (v : Byte)
  /-- `or v` (R96) -/
  | or (v : Byte)
  /-- `cp v` (R97) -/
  | cp (v : Byte)
  /-- `inc r` (R98) -/
  | inc (r : R8)
  /-- `dec r` (R99) -/
  | dec (r : R8)
  /-- `daa` (R110) -/
  | daa
  /-- `cpl` (R111) -/
  | cpl
  /-- `add_hl rr` (R120) -/
  | addHl (rr : R16)
  /-- `inc_u16 rr` (R121) -/
  | incU16 (rr : R16)
  /-- `dec_u16 rr` (R122) -/
  | decU16 (rr : R16)
  /-- `add_sp e` (R123) -/
  | addSp (e : Byte)
  /-- `ld_hl e` (R124) -/
  | ldHl (e : Byte)
  deriving DecidableEq, Repr

/-- One request as the dispatcher presents it (R70), still in bits: a command word (R50), a register-port write
`RegWrite(id, data)` (R61), or reset (R150). Any bits can be presented; which are legal is R60 and R62. -/
inductive Request where
  | command (w : CommandWord)
  | regWrite (id : ViewId) (data : Word)
  | reset
  deriving DecidableEq, Repr

end Sys2Proof
end

