-- ==== Sys2Proof/Decode.lean ====
section
/-! DEFINITION. The decoder of command words (30_encoding.md R50 to R60), total and rejecting by name, and after it
the encoder, written from the same tables; then the identifiers of the register port (R30, R61, R62) both ways. -/

namespace Sys2Proof

/-- Why a command word is illegal (R60). Where several reasons apply the decoder reports the first of: the operation
number, the register selector, the unused bits. -/
inductive IllegalCommand where
  /-- `op` is 0x15 to 0x1F -/
  | reservedOp
  /-- `sel` is 110 where an `r8` code stands -/
  | reservedRegister
  /-- a must-be-zero bit is one, `sel[2]` of the formats `P` and `PW` among them (R59) -/
  | unusedBitSet
  deriving DecidableEq, Repr

/-- Why a register-port write is illegal (R62). -/
inductive IllegalRegWrite where
  /-- the identifier is 14 or 15 -/
  | reservedView
  /-- `data[15:8]` is not zero on an 8-bit view -/
  | highByteSet
  deriving DecidableEq, Repr

/-! ### The fields of a command word (R51) -/

/-- `op`, bits 23:19 -/
def opField (w : CommandWord) : BitVec 5 := w.extractLsb' 19 5

/-- `sel`, bits 18:16 -/
def selField (w : CommandWord) : BitVec 3 := w.extractLsb' 16 3

/-- `imm`, bits 15:0 -/
def immField (w : CommandWord) : Word := w.extractLsb' 0 16

/-- The 8-bit literal `imm[7:0]`, where `imm[15:8]` is zero as R59 demands. -/
def immByte (w : CommandWord) : Option Byte :=
  if (immField w).extractLsb' 8 8 = 0#8 then some ((immField w).extractLsb' 0 8) else none

/-! ### Register selectors -/

/-- The `r8` selector codes (R54); 110 is reserved. -/
def R8.ofCode : BitVec 3 → Option R8
  | 0b000#3 => some .b
  | 0b001#3 => some .c
  | 0b010#3 => some .d
  | 0b011#3 => some .e
  | 0b100#3 => some .h
  | 0b101#3 => some .l
  | 0b111#3 => some .a
  | _ => none

/-- The `r16` selector codes (R55), in `sel[1:0]` with `sel[2]` zero. -/
def R16.ofCode : BitVec 3 → Option R16
  | 0b000#3 => some .bc
  | 0b001#3 => some .de
  | 0b010#3 => some .hl
  | 0b011#3 => some .sp
  | _ => none

/-! ### One decoder per format (R52, R59) -/

/-- Format `Z`: no operand; `sel` and `imm` are zero. -/
def decodeZ (w : CommandWord) (mk : Instr) : Except IllegalCommand Instr :=
  if selField w = 0#3 ∧ immField w = 0#16 then .ok mk else .error .unusedBitSet

/-- Formats `V` and `S`: an 8-bit literal; `sel` is zero. -/
def decodeV (w : CommandWord) (mk : Byte → Instr) : Except IllegalCommand Instr :=
  if selField w = 0#3 then
    match immByte w with
    | some v => .ok (mk v)
    | none => .error .unusedBitSet
  else .error .unusedBitSet

/-- Format `RV`: an 8-bit register and an 8-bit literal. -/
def decodeRV (w : CommandWord) (mk : R8 → Byte → Instr) : Except IllegalCommand Instr :=
  match R8.ofCode (selField w), immByte w with
  | some r, some v => .ok (mk r v)
  | some _, none => .error .unusedBitSet
  | none, _ => .error .reservedRegister

/-- Format `R`: an 8-bit register; `imm` is zero. -/
def decodeR (w : CommandWord) (mk : R8 → Instr) : Except IllegalCommand Instr :=
  match R8.ofCode (selField w) with
  | some r => if immField w = 0#16 then .ok (mk r) else .error .unusedBitSet
  | none => .error .reservedRegister

/-- Format `P`: a 16-bit register; `imm` is zero. -/
def decodeP (w : CommandWord) (mk : R16 → Instr) : Except IllegalCommand Instr :=
  match R16.ofCode (selField w) with
  | some rr => if immField w = 0#16 then .ok (mk rr) else .error .unusedBitSet
  | none => .error .unusedBitSet

/-- Format `PW`: a 16-bit register and a 16-bit literal. -/
def decodePW (w : CommandWord) (mk : R16 → Word → Instr) : Except IllegalCommand Instr :=
  match R16.ofCode (selField w) with
  | some rr => .ok (mk rr (immField w))
  | none => .error .unusedBitSet

/-- The decoder: every 24-bit word is one legal operation or illegal (R53, R60). -/
def decode (w : CommandWord) : Except IllegalCommand Instr :=
  match opField w with
  | 0x00#5 => decodeRV w .ld
  | 0x01#5 => decodeRV w .ldi
  | 0x02#5 => decodeRV w .ldd
  | 0x03#5 => decodePW w .ldU16
  | 0x04#5 => decodeV w .add
  | 0x05#5 => decodeV w .adc
  | 0x06#5 => decodeV w .sub
  | 0x07#5 => decodeV w .sbc
  | 0x08#5 => decodeV w .and
  | 0x09#5 => decodeV w .xor
  | 0x0A#5 => decodeV w .or
  | 0x0B#5 => decodeV w .cp
  | 0x0C#5 => decodeR w .inc
  | 0x0D#5 => decodeR w .dec
  | 0x0E#5 => decodeZ w .daa
  | 0x0F#5 => decodeZ w .cpl
  | 0x10#5 => decodeP w .addHl
  | 0x11#5 => decodeP w .incU16
  | 0x12#5 => decodeP w .decU16
  | 0x13#5 => decodeV w .addSp
  | 0x14#5 => decodeV w .ldHl
  | _ => .error .reservedOp

/-- The instruction the decoder reads from a table word: a row has 24 bits, numbered as R51 numbers them, and the
block sees the word whole (no byte order is involved, R43). A value that needs more than 24 bits is no command. -/
def decodeTableWord (nbits w : Nat) : Option Instr :=
  if w % 2 ^ nbits < 2 ^ 24 then
    match decode (BitVec.ofNat 24 (w % 2 ^ nbits)) with
    | .ok i => some i
    | .error _ => none
  else none

/-! ### The encoder -/

/-- A command word from its three fields (R51). -/
def pack (op : BitVec 5) (sel : BitVec 3) (imm : Word) : CommandWord := op ++ sel ++ imm

/-- The `r8` code of a register (R54). -/
def R8.code : R8 → BitVec 3
  | .b => 0b000#3
  | .c => 0b001#3
  | .d => 0b010#3
  | .e => 0b011#3
  | .h => 0b100#3
  | .l => 0b101#3
  | .a => 0b111#3

/-- The `r16` code of a register, with `sel[2]` zero (R55). -/
def R16.code : R16 → BitVec 3
  | .bc => 0b000#3
  | .de => 0b001#3
  | .hl => 0b010#3
  | .sp => 0b011#3

/-- The command word of an operation (R52, R53). -/
def encode : Instr → CommandWord
  | .ld r v => pack 0x00#5 r.code (v.setWidth 16)
  | .ldi r v => pack 0x01#5 r.code (v.setWidth 16)
  | .ldd r v => pack 0x02#5 r.code (v.setWidth 16)
  | .ldU16 rr w => pack 0x03#5 rr.code w
  | .add v => pack 0x04#5 0#3 (v.setWidth 16)
  | .adc v => pack 0x05#5 0#3 (v.setWidth 16)
  | .sub v => pack 0x06#5 0#3 (v.setWidth 16)
  | .sbc v => pack 0x07#5 0#3 (v.setWidth 16)
  | .and v => pack 0x08#5 0#3 (v.setWidth 16)
  | .xor v => pack 0x09#5 0#3 (v.setWidth 16)
  | .or v => pack 0x0A#5 0#3 (v.setWidth 16)
  | .cp v => pack 0x0B#5 0#3 (v.setWidth 16)
  | .inc r => pack 0x0C#5 r.code 0#16
  | .dec r => pack 0x0D#5 r.code 0#16
  | .daa => pack 0x0E#5 0#3 0#16
  | .cpl => pack 0x0F#5 0#3 0#16
  | .addHl rr => pack 0x10#5 rr.code 0#16
  | .incU16 rr => pack 0x11#5 rr.code 0#16
  | .decU16 rr => pack 0x12#5 rr.code 0#16
  | .addSp e => pack 0x13#5 0#3 (e.setWidth 16)
  | .ldHl e => pack 0x14#5 0#3 (e.setWidth 16)

/-! ### The register port's identifiers -/

/-- The view an identifier names (R30); 14 and 15 are reserved. -/
def View.ofId : ViewId → Option View
  | 0#4 => some .b
  | 1#4 => some .c
  | 2#4 => some .d
  | 3#4 => some .e
  | 4#4 => some .h
  | 5#4 => some .l
  | 6#4 => some .f
  | 7#4 => some .a
  | 8#4 => some .bc
  | 9#4 => some .de
  | 10#4 => some .hl
  | 11#4 => some .sp
  | 12#4 => some .af
  | 13#4 => some .pc
  | _ => none

/-- The identifier of a view (R30). -/
def View.id : View → ViewId
  | .b => 0#4
  | .c => 1#4
  | .d => 2#4
  | .e => 3#4
  | .h => 4#4
  | .l => 5#4
  | .f => 6#4
  | .a => 7#4
  | .bc => 8#4
  | .de => 9#4
  | .hl => 10#4
  | .sp => 11#4
  | .af => 12#4
  | .pc => 13#4

/-- Whether a view is 8 bits wide (R30). -/
def View.isByte : View → Bool
  | .b | .c | .d | .e | .h | .l | .f | .a => true
  | .bc | .de | .hl | .sp | .af | .pc => false

/-- The view a register-port write goes to, or why the write is illegal (R61, R62). -/
def decodeRegWrite (id : ViewId) (data : Word) : Except IllegalRegWrite View :=
  match View.ofId id with
  | none => .error .reservedView
  | some v => if v.isByte && data.extractLsb' 8 8 != 0#8 then .error .highByteSet else .ok v

end Sys2Proof
end

