-- ==== Sys2Proof/Machine/State.lean ====
section
/-! DEFINITION. The state of the block (10_state.md R10: ten stored items and nothing else) beside the requests the
dispatcher has presented and the block has not executed yet, the reasons a step can stop, and the state after
reset. -/

namespace Sys2Proof.Machine

/-- The flag register F: four booleans, and no storage for bits 3 to 0 of its byte view (R12, ID7). -/
@[ext]
structure Flags where
  /-- zero -/
  z : Bool
  /-- subtraction -/
  n : Bool
  /-- half_carry -/
  h : Bool
  /-- carry -/
  c : Bool
  deriving DecidableEq, Repr

/-- The stored items of R10, each once; the views AF, BC, DE, HL and the byte view of F are computed (R20, R22, R19).
`pending` is the model's own field: the serial request stream of R70, the next request first. It is no storage of
the block; it is what the dispatcher presents, held here so that the step is a function of the state alone
(notes/assumptions/1.md). -/
@[ext]
structure State where
  a : Byte
  b : Byte
  c : Byte
  d : Byte
  e : Byte
  h : Byte
  l : Byte
  f : Flags
  sp : Word
  pc : Word
  pending : List Request
  deriving DecidableEq, Repr

/-- The faults of the block. There are none: "The list of synchronous exception causes of the block is empty" (R130),
so no constructor stands here and no step can answer a fault. -/
inductive Fault where
  deriving DecidableEq, Repr

/-- What the model refuses. -/
inductive Refusal where
  /-- An instruction without a meaning; raised by no arm of `exec` in this model. Safe: the run stops. -/
  | notModelled (mnemonic : String)
  /-- An illegal command word (R60, R131: "The model must **refuse** it"), raised by the execution of a command
  request. Safe: the run stops and no claim is made about it. -/
  | illegalCommand (why : IllegalCommand)
  /-- An illegal register-port write (R62, treated as R60 treats an illegal word), raised by the execution of a
  register-port write request. Safe: the run stops and no claim is made about it. -/
  | illegalRegWrite (why : IllegalRegWrite)
  deriving DecidableEq, Repr

/-- The outcome of executing something from a state. -/
abbrev Result := Host.Outcome State Fault Refusal

/-- The state after reset: every stored item is zero (R27); nothing has been presented yet. -/
def State.reset : State where
  a := 0#8
  b := 0#8
  c := 0#8
  d := 0#8
  e := 0#8
  h := 0#8
  l := 0#8
  f := ⟨false, false, false, false⟩
  sp := 0#16
  pc := 0#16
  pending := []

end Sys2Proof.Machine
end

