-- ==== Sys2Proof/Machine/Flags.lean ====
section
/-! DEFINITION. The `flags_alu` part: the byte mapping of F (R15, R16) and the result and flags of every operation
(42_alu8.md, 43_daa_cpl.md, 44_alu16.md). As the spec writes it, each value is computed exactly, on natural numbers
or integers, and narrowed at the end (R6). The literals are the source's, fixed as written (ID6). -/

namespace Sys2Proof.Machine

/-! ### The byte view of F -/

/-- `from_byte` (R15): bits 7, 6, 5, 4 are z, n, h, c; bits 3 to 0 are ignored. -/
def Flags.ofByte (v : Byte) : Flags :=
  ⟨v.getLsbD 7, v.getLsbD 6, v.getLsbD 5, v.getLsbD 4⟩

/-- `to_byte` (R16): `128*z + 64*n + 32*h + 16*c`, so bits 3 to 0 are zero. -/
def Flags.toByte (f : Flags) : Byte :=
  BitVec.ofNat 8 (128 * f.z.toNat + 64 * f.n.toNat + 32 * f.h.toNat + 16 * f.c.toNat)

/-! ### 8-bit results and flag tests (R101) -/

/-- `(x + y + cin) mod 2^8` -/
def sum8 (x y : Byte) (cin : Nat) : Byte := BitVec.ofNat 8 (x.toNat + y.toNat + cin)

/-- `(x - y) mod 2^8` -/
def diff8 (x y : Byte) : Byte := BitVec.ofInt 8 (x.toNat - y.toNat)

/-- The low nibble, `v & 0xF`. -/
def nibble (v : Byte) : Nat := (v &&& 0x0F#8).toNat

/-- The nibble sum test: the carry out of bit 3. -/
def halfCarry8 (x y : Byte) (cin : Nat) : Bool := decide (nibble x + nibble y + cin > 0xF)

/-- The nibble underflow test: the borrow out of bit 3. -/
def halfBorrow8 (x y : Byte) (cin : Nat) : Bool := decide (nibble x < nibble y + cin)

/-- Unsigned overflow of the 8-bit sum: the carry out of bit 7. -/
def carry8 (x y : Byte) (cin : Nat) : Bool := decide (x.toNat + y.toNat + cin > 0xFF)

/-- Unsigned underflow of the 8-bit difference: the borrow. -/
def borrow8 (x y : Byte) : Bool := decide (x.toNat < y.toNat)

/-- `result == 0`, on the truncated result. -/
def isZero (v : Byte) : Bool := v == 0#8

/-! ### The flags of the 8-bit operations -/

/-- The flags of `add` and `adc` (R90, R91). -/
def addFlags (x y : Byte) (cin : Nat) : Flags :=
  ⟨isZero (sum8 x y cin), false, halfCarry8 x y cin, carry8 x y cin⟩

/-- The flags of `sub` and `cp` (R92, R97). -/
def subFlags (x y : Byte) : Flags :=
  ⟨isZero (diff8 x y), true, halfBorrow8 x y 0, borrow8 x y⟩

/-- The flags of `sbc` (R93): zero and carry of the sum, the half-carry of the nibble borrow test. -/
def sbcFlags (x y : Byte) (cin : Nat) : Flags :=
  ⟨isZero (sum8 x y cin), true, halfBorrow8 x y cin, carry8 x y cin⟩

/-- The flags of `and` (half_carry forced true), `xor` and `or` (forced false) from their result (R94 to R96). -/
def logicFlags (result : Byte) (half : Bool) : Flags :=
  ⟨isZero result, false, half, false⟩

/-- The flags of `inc` (R98): z, n, h are written, carry is kept. -/
def incFlags (x : Byte) (old : Flags) : Flags :=
  ⟨isZero (sum8 x 1#8 0), false, halfCarry8 x 1#8 0, old.c⟩

/-- The flags of `dec` (R99): z, n, h are written, carry is kept. -/
def decFlags (x : Byte) (old : Flags) : Flags :=
  ⟨isZero (diff8 x 1#8), true, halfBorrow8 x 1#8 0, old.c⟩

/-! ### Decimal adjust and complement -/

/-- The condition of the 0x60 term (R110): carry set or A above 0x9F. -/
def daaHigh (x : Byte) (f : Flags) : Bool := f.c || decide (x.toNat > 0x9F)

/-- The condition of the 0x06 term (R110): half_carry set or the low nibble above 0x09. -/
def daaLow (x : Byte) (f : Flags) : Bool := f.h || decide (nibble x > 0x09)

/-- The correction (R110): 0x00, 0x06, 0x60 or 0x66. -/
def daaAdjust (x : Byte) (f : Flags) : Byte :=
  BitVec.ofNat 8 ((if daaHigh x f then 0x60 else 0) + (if daaLow x f then 0x06 else 0))

/-- The corrected A (R110): subtract the correction where the subtraction flag is set, add it where it is clear. -/
def daaResult (x : Byte) (f : Flags) : Byte :=
  if f.n then diff8 x (daaAdjust x f) else sum8 x (daaAdjust x f) 0

/-- The flags of `daa` (R110): z and c from the corrected A; n and h are kept. -/
def daaFlags (x : Byte) (f : Flags) : Flags :=
  ⟨isZero (daaResult x f), f.n, f.h, decide ((daaResult x f).toNat > 0x99)⟩

/-- The flags of `cpl` (R111): n and h are forced true; z and c are kept. -/
def cplFlags (old : Flags) : Flags := ⟨old.z, true, true, old.c⟩

/-! ### 16-bit results and flag tests (R125) -/

/-- `(x + y) mod 2^16` -/
def sum16 (x y : Word) : Word := BitVec.ofNat 16 (x.toNat + y.toNat)

/-- `(x - y) mod 2^16` -/
def diff16 (x y : Word) : Word := BitVec.ofInt 16 (x.toNat - y.toNat)

/-- `H16(x, y) = ((x & 0x0F00) + (y & 0x0F00) > 0x0F00)` (R125), which does not see a carry out of the low byte. -/
def half16 (x y : Word) : Bool :=
  decide ((x &&& 0x0F00#16).toNat + (y &&& 0x0F00#16).toNat > 0x0F00)

/-- The carry out of bit 15. -/
def carry16 (x y : Word) : Bool := decide (x.toNat + y.toNat > 0xFFFF)

/-- The flags of `add_hl` (R120): z is kept. -/
def addHlFlags (x y : Word) (old : Flags) : Flags := ⟨old.z, false, half16 x y, carry16 x y⟩

/-- The flags of `add_sp` and `ld_hl` (R123, R124): z and n are always false. -/
def spFlags (x y : Word) : Flags := ⟨false, false, half16 x y, carry16 x y⟩

end Sys2Proof.Machine
end

