-- ==== Sys2Proof/Machine/Ops.lean ====
section
/-! DEFINITION. The register file: reads and writes of every register and view (10_state.md R17 to R24), the write of
F by an operation, the reset of the registers (R27, R150) and the presentation of requests (R70).

The block has no memory (20_memory.md R40), so no memory operation stands here; it raises no exception and has no
trap entry and no return (R130, R135), so there is no such operation either. -/

namespace Sys2Proof.Machine

/-! ### 8-bit registers -/

/-- The stored value of an 8-bit register (R17). -/
def State.readR8 (s : State) : R8 → Byte
  | .a => s.a
  | .b => s.b
  | .c => s.c
  | .d => s.d
  | .e => s.e
  | .h => s.h
  | .l => s.l

/-- Replace the stored value of an 8-bit register and change nothing else, no flag in particular (R18). -/
def State.writeR8 (s : State) (r : R8) (v : Byte) : State :=
  match r with
  | .a => { s with a := v }
  | .b => { s with b := v }
  | .c => { s with c := v }
  | .d => { s with d := v }
  | .e => { s with e := v }
  | .h => { s with h := v }
  | .l => { s with l := v }

/-! ### Pairs -/

/-- A 16-bit value from its halves, `(hi << 8) | lo` (R20). -/
def joinBytes (hi lo : Byte) : Word := hi ++ lo

/-- `v[15:8]` (R21) -/
def highByte (v : Word) : Byte := v.extractLsb' 8 8

/-- `v[7:0]` (R21) -/
def lowByte (v : Word) : Byte := v.extractLsb' 0 8

/-- The value of a 16-bit register that an operation may select: a pair (R20) or SP (R24). -/
def State.readR16 (s : State) : R16 → Word
  | .bc => joinBytes s.b s.c
  | .de => joinBytes s.d s.e
  | .hl => joinBytes s.h s.l
  | .sp => s.sp

/-- Write a 16-bit register: both halves of a pair in one step (R21), or SP as it is (R24). -/
def State.writeR16 (s : State) (rr : R16) (v : Word) : State :=
  match rr with
  | .bc => { s with b := highByte v, c := lowByte v }
  | .de => { s with d := highByte v, e := lowByte v }
  | .hl => { s with h := highByte v, l := lowByte v }
  | .sp => { s with sp := v }

/-! ### The flag register -/

/-- Write F; the operations compute a whole `Flags` value in which a flag outside their write mask is the old one
(R77). -/
def State.setFlags (s : State) (f : Flags) : State := { s with f := f }

/-! ### The register port's views -/

/-- The 16 bits a register-port read of a view returns (R17, R19, R20, R22, R24); bits 15 to 8 are zero for an 8-bit
view (R30). A read has no side effect (R29). -/
def State.readView (s : State) : View → Word
  | .b => joinBytes 0#8 s.b
  | .c => joinBytes 0#8 s.c
  | .d => joinBytes 0#8 s.d
  | .e => joinBytes 0#8 s.e
  | .h => joinBytes 0#8 s.h
  | .l => joinBytes 0#8 s.l
  | .f => joinBytes 0#8 s.f.toByte
  | .a => joinBytes 0#8 s.a
  | .bc => s.readR16 .bc
  | .de => s.readR16 .de
  | .hl => s.readR16 .hl
  | .sp => s.readR16 .sp
  | .af => joinBytes s.a s.f.toByte
  | .pc => s.pc

/-- Write a view: `data[7:0]` for an 8-bit view, `data` for a 16-bit one (R18, R19, R21, R23, R24, R61). F takes
`from_byte` of its byte, alone or as the low half of AF. -/
def State.writeView (s : State) (v : View) (data : Word) : State :=
  match v with
  | .b => s.writeR8 .b (lowByte data)
  | .c => s.writeR8 .c (lowByte data)
  | .d => s.writeR8 .d (lowByte data)
  | .e => s.writeR8 .e (lowByte data)
  | .h => s.writeR8 .h (lowByte data)
  | .l => s.writeR8 .l (lowByte data)
  | .f => s.setFlags (Flags.ofByte (lowByte data))
  | .a => s.writeR8 .a (lowByte data)
  | .bc => s.writeR16 .bc data
  | .de => s.writeR16 .de data
  | .hl => s.writeR16 .hl data
  | .sp => s.writeR16 .sp data
  | .af => (s.writeR8 .a (highByte data)).setFlags (Flags.ofByte (lowByte data))
  | .pc => { s with pc := data }

/-- A register-port read by identifier (R29, R30); 14 and 15 return no value (R62). -/
def State.portRead (s : State) (id : ViewId) : Option Word :=
  (View.ofId id).map s.readView

/-! ### Reset and the request stream -/

/-- Every stored item at its value after reset, whatever it was (R150); the requests still waiting are not the
block's to drop (R151). -/
def State.resetRegisters (s : State) : State := { State.reset with pending := s.pending }

/-- The requests that remain to be executed. -/
def State.setPending (s : State) (rs : List Request) : State := { s with pending := rs }

/-- The dispatcher presents further requests, to be executed after those already waiting (R46, R70). -/
def State.present (s : State) (rs : List Request) : State := s.setPending (s.pending ++ rs)

end Sys2Proof.Machine
end

