-- ==== Sys2Proof/Machine/Operands.lean ====
section
/-! DEFINITION. The source operands of the operations that are neither a register (Ops.lean) nor a literal of the
command word taken as it stands: the carry-in, the sign-extended i8 and the constants (R58, R76). Every operand is
read from the state before the operation (R75). -/

namespace Sys2Proof.Machine

/-- `sext_16(e)` (R58): `e` where `e[7]` is 0, `0xFF00 | e` where `e[7]` is 1. -/
def sext16 (e : Byte) : Word := e.signExtend 16

/-- `cin = b2n(pre(F.c))` (R76): 0 or 1. -/
def State.carryIn (s : State) : Nat := s.f.c.toNat

/-- The constant operand of `inc` and `dec` (R76). -/
def one8 : Byte := 1#8

/-- The constant operand of the 16-bit steps: `inc_u16`, `dec_u16` and the HL update of `ldi` and `ldd` (R76). -/
def one16 : Word := 1#16

/-- The constant operand of `cpl` (R76). -/
def ones8 : Byte := 0xFF#8

end Sys2Proof.Machine
end

