-- ==== Sys2Proof/Machine/Alu16.lean ====
section
/-! DEFINITION. The 16-bit arithmetic family (44_alu16.md R120 to R125). -/

namespace Sys2Proof.Machine

/-- `add_hl rr` (R120): both addends are the values before the operation, HL itself among them. -/
def execAddHl (rr : R16) (s : State) : Result :=
  .next ((s.writeR16 .hl (sum16 (s.readR16 .hl) (s.readR16 rr))).setFlags
    (addHlFlags (s.readR16 .hl) (s.readR16 rr) s.f))

/-- `inc_u16 rr` (R121) -/
def execIncU16 (rr : R16) (s : State) : Result :=
  .next (s.writeR16 rr (sum16 (s.readR16 rr) one16))

/-- `dec_u16 rr` (R122) -/
def execDecU16 (rr : R16) (s : State) : Result :=
  .next (s.writeR16 rr (diff16 (s.readR16 rr) one16))

/-- `add_sp e` (R123) -/
def execAddSp (e : Byte) (s : State) : Result :=
  .next ((s.writeR16 .sp (sum16 s.sp (sext16 e))).setFlags (spFlags s.sp (sext16 e)))

/-- `ld_hl e` (R124): the computation of `add_sp`, written to HL; SP is kept. -/
def execLdHl (e : Byte) (s : State) : Result :=
  .next ((s.writeR16 .hl (sum16 s.sp (sext16 e))).setFlags (spFlags s.sp (sext16 e)))

end Sys2Proof.Machine
end

