-- ==== Sys2Proof/Machine/Alu8.lean ====
section
/-! DEFINITION. The 8-bit arithmetic and logic family (42_alu8.md R90 to R101): eight operations on the accumulator and
a literal, and `inc` and `dec` of a selected register. -/

namespace Sys2Proof.Machine

/-- Write the accumulator and a full new flag value (R100). -/
def State.writeAccumulator (s : State) (v : Byte) (f : Flags) : State := (s.writeR8 .a v).setFlags f

/-- `add v` (R90) -/
def execAdd (v : Byte) (s : State) : Result :=
  .next (s.writeAccumulator (sum8 s.a v 0) (addFlags s.a v 0))

/-- `adc v` (R91) -/
def execAdc (v : Byte) (s : State) : Result :=
  .next (s.writeAccumulator (sum8 s.a v s.carryIn) (addFlags s.a v s.carryIn))

/-- `sub v` (R92) -/
def execSub (v : Byte) (s : State) : Result :=
  .next (s.writeAccumulator (diff8 s.a v) (subFlags s.a v))

/-- `sbc v` (R93): "a SUM, not a difference" (90_conflicts.md C2). -/
def execSbc (v : Byte) (s : State) : Result :=
  .next (s.writeAccumulator (sum8 s.a v s.carryIn) (sbcFlags s.a v s.carryIn))

/-- `and v` (R94) -/
def execAnd (v : Byte) (s : State) : Result :=
  .next (s.writeAccumulator (s.a &&& v) (logicFlags (s.a &&& v) true))

/-- `xor v` (R95) -/
def execXor (v : Byte) (s : State) : Result :=
  .next (s.writeAccumulator (s.a ^^^ v) (logicFlags (s.a ^^^ v) false))

/-- `or v` (R96) -/
def execOr (v : Byte) (s : State) : Result :=
  .next (s.writeAccumulator (s.a ||| v) (logicFlags (s.a ||| v) false))

/-- `cp v` (R97): the flags of `sub`; no register is written. -/
def execCp (v : Byte) (s : State) : Result := .next (s.setFlags (subFlags s.a v))

/-- `inc r` (R98) -/
def execInc (r : R8) (s : State) : Result :=
  .next ((s.writeR8 r (sum8 (s.readR8 r) one8 0)).setFlags (incFlags (s.readR8 r) s.f))

/-- `dec r` (R99) -/
def execDec (r : R8) (s : State) : Result :=
  .next ((s.writeR8 r (diff8 (s.readR8 r) one8)).setFlags (decFlags (s.readR8 r) s.f))

end Sys2Proof.Machine
end

