-- ==== Sys2Proof/Machine/DaaCpl.lean ====
section
/-! DEFINITION. Decimal adjust and complement (43_daa_cpl.md R110, R111). -/

namespace Sys2Proof.Machine

/-- `daa` (R110): A and the flags it reads are the ones before the operation. -/
def execDaa (s : State) : Result :=
  .next ((s.writeR8 .a (daaResult s.a s.f)).setFlags (daaFlags s.a s.f))

/-- `cpl` (R111) -/
def execCpl (s : State) : Result :=
  .next ((s.writeR8 .a (s.a ^^^ ones8)).setFlags (cplFlags s.f))

end Sys2Proof.Machine
end

