-- ==== Sys2Proof/Machine/Load.lean ====
section
/-! DEFINITION. The load family (41_load.md R80 to R83): already-resolved literals into registers, no flag written. -/

namespace Sys2Proof.Machine

/-- `ld r, v` (R80) -/
def execLd (r : R8) (v : Byte) (s : State) : Result := .next (s.writeR8 r v)

/-- `ldi r, v` (R81): the same write as `ld`, then HL + 1, which reads H and L as the write left them. -/
def execLdi (r : R8) (v : Byte) (s : State) : Result :=
  let s₁ := s.writeR8 r v
  .next (s₁.writeR16 .hl (sum16 (s₁.readR16 .hl) one16))

/-- `ldd r, v` (R82): the same write as `ld`, then HL - 1, which reads H and L as the write left them. -/
def execLdd (r : R8) (v : Byte) (s : State) : Result :=
  let s₁ := s.writeR8 r v
  .next (s₁.writeR16 .hl (diff16 (s₁.readR16 .hl) one16))

/-- `ld_u16 rr, w` (R83) -/
def execLdU16 (rr : R16) (w : Word) (s : State) : Result := .next (s.writeR16 rr w)

end Sys2Proof.Machine
end

