-- ==== Sys2Proof/Machine/Dispatch.lean ====
section
/-! DEFINITION. One arm per operation (R53). -/

namespace Sys2Proof.Machine

def exec (i : Instr) (s : State) : Host.Outcome State Fault Refusal :=
  match i with
  | .ld r v => Sys2Proof.Machine.execLd r v s
  | .ldi r v => Sys2Proof.Machine.execLdi r v s
  | .ldd r v => Sys2Proof.Machine.execLdd r v s
  | .ldU16 rr w => Sys2Proof.Machine.execLdU16 rr w s
  | .add v => Sys2Proof.Machine.execAdd v s
  | .adc v => Sys2Proof.Machine.execAdc v s
  | .sub v => Sys2Proof.Machine.execSub v s
  | .sbc v => Sys2Proof.Machine.execSbc v s
  | .and v => Sys2Proof.Machine.execAnd v s
  | .xor v => Sys2Proof.Machine.execXor v s
  | .or v => Sys2Proof.Machine.execOr v s
  | .cp v => Sys2Proof.Machine.execCp v s
  | .inc r => Sys2Proof.Machine.execInc r s
  | .dec r => Sys2Proof.Machine.execDec r s
  | .daa => Sys2Proof.Machine.execDaa s
  | .cpl => Sys2Proof.Machine.execCpl s
  | .addHl rr => Sys2Proof.Machine.execAddHl rr s
  | .incU16 rr => Sys2Proof.Machine.execIncU16 rr s
  | .decU16 rr => Sys2Proof.Machine.execDecU16 rr s
  | .addSp e => Sys2Proof.Machine.execAddSp e s
  | .ldHl e => Sys2Proof.Machine.execLdHl e s

end Sys2Proof.Machine
end

