-- ==== Sys2Proof/Machine/Requests.lean ====
section
/-! DEFINITION. Executing one request (R70): a command, a register-port write or reset. Each is atomic (R71): it either
gives its whole effect in one next state or, where it is illegal, is refused with none (R131). -/

namespace Sys2Proof.Machine

/-- A command: decoded and executed, or refused where the word is illegal (R60, R131). -/
def runCommand (w : CommandWord) (s : State) : Result :=
  match decode w with
  | .ok i => exec i s
  | .error why => .refused (.illegalCommand why)

/-- A register-port write, or its refusal where it is illegal (R61, R62). -/
def runRegWrite (id : ViewId) (data : Word) (s : State) : Result :=
  match decodeRegWrite id data with
  | .ok v => .next (s.writeView v data)
  | .error why => .refused (.illegalRegWrite why)

/-- Reset: the whole state to its values after reset, whatever it was (R150). -/
def runReset (s : State) : Result := .next s.resetRegisters

/-- One request (R70). -/
def runRequest (r : Request) (s : State) : Result :=
  match r with
  | .command w => runCommand w s
  | .regWrite id data => runRegWrite id data s
  | .reset => runReset s

/-- Take the next request of the stream and execute it; with none presented the block holds its state (R79, R133;
notes/assumptions/2.md). -/
def runNext (s : State) : Result :=
  match s.pending with
  | [] => .next s
  | r :: rest => runRequest r (s.setPending rest)

end Sys2Proof.Machine
end

