-- ==== Sys2Proof/Machine/Step.lean ====
section
/-! DEFINITION. One step of the machine is one request (R156: "it steps once per request"). -/

namespace Sys2Proof.Machine

/-- One step: the next request of the serial stream, executed whole (R70, R71). -/
def step (s : State) : Host.Outcome State Fault Refusal := runNext s

/-- The dispatcher presents the table word `w` as the very next request: the block does not fetch (R48), it is handed
its command whole (notes/assumptions/3.md). -/
def State.withFetchWord (s : State) (nbits w : Nat) : State :=
  s.setPending (.command (BitVec.ofNat 24 (w % 2 ^ nbits)) :: s.pending)

end Sys2Proof.Machine
end

