-- ==== Sys2Proof/Config.lean ====
section
/-! DEFINITION. What an implementation of the block may fix, and the free values. There are none: R5 leaves no
parameter of the state or the arithmetic open, R73 gives the block no hidden input, no draw and no oracle, and
93_implementation_defined.md closes with "Nothing in the block takes the treatments `fault` or `any value`".
So this file declares no free value and no choice. It holds only the counts the spec states, which tests and
statements compare the model with. (The literals of the arithmetic, which the spec fixes as written, stand in
Machine/Flags.lean beside the formulas that use them.) -/

namespace Sys2Proof

/-- The number of operations (R2, R5): 21, and "No other operation exists in the block". -/
def Config.operationCount : Nat := 21

/-- The number of views the register port offers (R30): identifiers 0 to 13. -/
def Config.viewCount : Nat := 14

/-- The number of legal command words (30_encoding.md section 6): 270108 of 16777216. -/
def Config.legalWordCount : Nat := 270108

end Sys2Proof
end

