-- ==== Sys2Proof/WellFormed.lean ====
section
/-! DEFINITION. Which requests are legal. The opcode map of R53 with the masks of R52 is written here as a list of
rows, so that it can be held beside the spec's table; a command word is legal when a row selects it (R60). The
decoder of Decode.lean is written from the fields of R51 instead, and the two are compared by a statement.

A term of `Instr` needs no check of its own: its operands range over the spec's closed sets, and R60 puts the legal
words in one-to-one correspondence with these terms. So every check of this file is a check of a `Request`. -/

namespace Sys2Proof

/-- The seven command formats of R52. -/
inductive Format where
  | z | v | rv | r | p | pw | s
  deriving DecidableEq, Repr

/-- The bits that must match, by format (R52). -/
def Format.mask : Format → CommandWord
  | .z => 0xFFFFFF#24
  | .v => 0xFFFF00#24
  | .rv => 0xF8FF00#24
  | .r => 0xF8FFFF#24
  | .p => 0xFCFFFF#24
  | .pw => 0xFC0000#24
  | .s => 0xFFFF00#24

/-- Whether `sel` holds an `r8` code, whose value 6 is reserved (R54): the formats `RV` and `R`. -/
def Format.selectsR8 : Format → Bool
  | .rv | .r => true
  | .z | .v | .p | .pw | .s => false

/-- One row of the opcode map (R53). -/
structure OpcodeRow where
  mnemonic : String
  format : Format
  pattern : CommandWord
  deriving DecidableEq, Repr

/-- The opcode map (R53), row for row. -/
def opcodeTable : List OpcodeRow :=
  [⟨"ld", .rv, 0x000000#24⟩,
   ⟨"ldi", .rv, 0x080000#24⟩,
   ⟨"ldd", .rv, 0x100000#24⟩,
   ⟨"ld_u16", .pw, 0x180000#24⟩,
   ⟨"add", .v, 0x200000#24⟩,
   ⟨"adc", .v, 0x280000#24⟩,
   ⟨"sub", .v, 0x300000#24⟩,
   ⟨"sbc", .v, 0x380000#24⟩,
   ⟨"and", .v, 0x400000#24⟩,
   ⟨"xor", .v, 0x480000#24⟩] ++
  [⟨"or", .v, 0x500000#24⟩,
   ⟨"cp", .v, 0x580000#24⟩,
   ⟨"inc", .r, 0x600000#24⟩,
   ⟨"dec", .r, 0x680000#24⟩,
   ⟨"daa", .z, 0x700000#24⟩,
   ⟨"cpl", .z, 0x780000#24⟩,
   ⟨"add_hl", .p, 0x800000#24⟩,
   ⟨"inc_u16", .p, 0x880000#24⟩,
   ⟨"dec_u16", .p, 0x900000#24⟩,
   ⟨"add_sp", .s, 0x980000#24⟩,
   ⟨"ld_hl", .s, 0xA00000#24⟩]

/-- A word selects a row's operation when `(word & mask) = match` and, where `sel` is an `r8` code, `sel` is not 6
(R53). -/
def OpcodeRow.selects (row : OpcodeRow) (w : CommandWord) : Bool :=
  w &&& row.format.mask == row.pattern && !(row.format.selectsR8 && w.extractLsb' 16 3 == 6#3)

/-- A command word is legal when it matches a row of the opcode map, and illegal otherwise (R60). -/
def legalCommand (w : CommandWord) : Bool :=
  opcodeTable.any (·.selects w)

/-- A register-port write is legal when its identifier names a view and, for an 8-bit view (identifiers 0 to 7), the
high byte of the data is zero (R61, R62). -/
def legalRegWrite (id : ViewId) (data : Word) : Bool :=
  decide (id.toNat < 14) && (decide (7 < id.toNat) || data.extractLsb' 8 8 == 0#8)

/-- A legal request (R60, R62); reset is always legal (R150). -/
def Request.wellFormed : Request → Bool
  | .command w => legalCommand w
  | .regWrite id data => legalRegWrite id data
  | .reset => true

end Sys2Proof
end

