-- ==== Sys2Proof/Safety.lean ====
section
/-! DEFINITION. What a safe run is. The only thing that can stop the machine is an illegal request, and the environment
owes the block never to present one (R74, R131). -/

namespace Sys2Proof.Machine

/-- Every request that waits is legal: what the environment owes the block (R74). -/
def State.Legal (s : State) : Prop := ∀ r ∈ s.pending, r.wellFormed = true

/-- A run of `n` steps from `s` is safe when it stops at no fault and no refusal. -/
def RunsSafely (n : Nat) (s : State) : Prop := ∃ t : State, Host.Core.run Sys2Proof.core n s = .next t

/-- The next state of an outcome, where it is one: for tests and for statements that compare two outcomes. -/
def nextState : Result → Option State
  | .next s => some s
  | .fault _ => none
  | .refused _ => none

end Sys2Proof.Machine
end

