-- ==== Sys2Proof/Certificates/Slice0/Obligations.lean ====
section
/-! DEFINITION. The statements for the provers. Each says, in its docstring, which sentence or section of the spec it
formalises. The values are written from the spec's pseudocode on natural numbers, or with bit-vector arithmetic, and
not with the functions of Machine/Flags.lean that the meanings call. A statement of an operation's result gives the
whole next state: what is written, and (its frame) that nothing else is; that the waiting requests (`pending`) are
among what is kept belongs to the model's choice of notes/assumptions/1.md. Its clause on `encode` gives the word of
the operation by the spec's own decisions D3 to D6 (operation number, fields and selector codes). -/

open Sys2Proof Sys2Proof.Machine

namespace Sys2Proof.Claims

/-! Notation of the spec that the statements below share. -/

/-- The `r8` selector code (R54, the spec's decision D5), written from the spec's table; 6 is reserved. -/
def r8Code : R8 → Nat
  | .b => 0 | .c => 1 | .d => 2 | .e => 3 | .h => 4 | .l => 5 | .a => 7

/-- The `r16` selector code (R55, the spec's decision D6), written from the spec's table. -/
def r16Code : R16 → Nat
  | .bc => 0 | .de => 1 | .hl => 2 | .sp => 3

/-- `x[11:8]` of a 16-bit value (R125). -/
def nibble11to8 (x : Word) : Nat := x.toNat / 256 % 16

/-- The sign-extended i8 literal as a natural number: 0x0000..0x007F or 0xFF80..0xFFFF (R58). -/
def signExtended (e : Byte) : Nat := if e.toNat < 128 then e.toNat else e.toNat + 0xFF00

/-- The source's half-carry formula on 16-bit values (R125), literally. -/
def h16 (x y : Nat) : Bool :=
  decide ((BitVec.ofNat 16 x &&& 0x0F00#16).toNat + (BitVec.ofNat 16 y &&& 0x0F00#16).toNat > 0x0F00)

/-- The packed decimal representation of a number below 100. -/
def bcd (n : Nat) : Byte := BitVec.ofNat 8 (16 * (n / 10) + n % 10)

/-- The 8-bit register is a half of the 16-bit one. -/
def halfOf : R16 → R8 → Bool
  | .bc, .b | .bc, .c | .de, .d | .de, .e | .hl, .h | .hl, .l => true
  | _, _ => false

/-- The 8-bit registers an operation reads (R26, column "reads"). -/
def readsR8 : Instr → R8 → Bool
  | .ld _ _, _ | .ldU16 _ _, _ | .addSp _, _ | .ldHl _, _ => false
  | .ldi _ _, r | .ldd _ _, r => halfOf .hl r
  | .add _, r | .adc _, r | .sub _, r | .sbc _, r | .and _, r | .xor _, r | .or _, r | .cp _, r => r == .a
  | .inc x, r | .dec x, r => r == x
  | .daa, r | .cpl, r => r == .a
  | .addHl rr, r => halfOf .hl r || halfOf rr r
  | .incU16 rr, r | .decU16 rr, r => halfOf rr r

/-- Whether an operation reads SP (R26). -/
def readsSp : Instr → Bool
  | .addHl rr | .incU16 rr | .decU16 rr => rr == .sp
  | .addSp _ | .ldHl _ => true
  | _ => false

/-- The 8-bit registers an operation writes (R26, column "writes (registers)"). -/
def writesR8 : Instr → R8 → Bool
  | .ld x _, r => r == x
  | .ldi x _, r | .ldd x _, r => r == x || halfOf .hl r
  | .ldU16 rr _, r | .incU16 rr, r | .decU16 rr, r => halfOf rr r
  | .add _, r | .adc _, r | .sub _, r | .sbc _, r | .and _, r | .xor _, r | .or _, r => r == .a
  | .cp _, _ | .addSp _, _ => false
  | .inc x, r | .dec x, r => r == x
  | .daa, r | .cpl, r => r == .a
  | .addHl _, r | .ldHl _, r => halfOf .hl r

/-- Whether an operation writes SP (R26). -/
def writesSp : Instr → Bool
  | .ldU16 rr _ | .incU16 rr | .decU16 rr => rr == .sp
  | .addSp _ => true
  | _ => false

/-- The flags an operation reads: `n`, `h`, `c` by `daa`, `c` by `adc` and `sbc`, and none else (R26). -/
def sameFlagsRead : Instr → Flags → Flags → Prop
  | .daa, f, g => f.n = g.n ∧ f.h = g.h ∧ f.c = g.c
  | .adc _, f, g | .sbc _, f, g => f.c = g.c
  | _, _, _ => True

/-- The flag write mask of an operation (R77): whether it writes z, n, h, c. -/
def flagMask : Instr → Flags
  | .add _ | .adc _ | .sub _ | .sbc _ | .and _ | .xor _ | .or _ | .cp _ => ⟨true, true, true, true⟩
  | .inc _ | .dec _ => ⟨true, true, true, false⟩
  | .daa => ⟨true, false, false, true⟩
  | .cpl => ⟨false, true, true, false⟩
  | .addHl _ => ⟨false, true, true, true⟩
  | .addSp _ | .ldHl _ => ⟨true, true, true, true⟩
  | .ld _ _ | .ldi _ _ | .ldd _ _ | .ldU16 _ _ | .incU16 _ | .decU16 _ => ⟨false, false, false, false⟩

end Sys2Proof.Claims

open Sys2Proof.Claims

/-! ### The register file -/

/-- R27: "After reset every stored item is zero", and so is every view. -/
def Obligations.ResetLeavesEveryItemZero : Prop :=
  (∀ r : R8, State.reset.readR8 r = 0#8) ∧
  State.reset.f.z = false ∧ State.reset.f.n = false ∧ State.reset.f.h = false ∧ State.reset.f.c = false ∧
  State.reset.sp = 0x0000#16 ∧ State.reset.pc = 0x0000#16 ∧
  ∀ v : View, State.reset.readView v = 0x0000#16

/-- R17, R18: a register reads as its stored value; a write replaces it, is seen through the pair that holds the
register, and changes nothing else, no flag in particular. -/
def Obligations.ByteRegisterWriteChangesOneRegister : Prop :=
  ∀ (s : State) (r : R8) (v : Byte),
    (s.readR8 .a = s.a ∧ s.readR8 .b = s.b ∧ s.readR8 .c = s.c ∧ s.readR8 .d = s.d ∧ s.readR8 .e = s.e ∧
      s.readR8 .h = s.h ∧ s.readR8 .l = s.l) ∧
    (s.writeR8 r v).readR8 r = v ∧
    (∀ r', r' ≠ r → (s.writeR8 r v).readR8 r' = s.readR8 r') ∧
    (s.writeR8 r v).f = s.f ∧ (s.writeR8 r v).sp = s.sp ∧ (s.writeR8 r v).pc = s.pc ∧
    (s.writeR8 r v).pending = s.pending ∧
    ((s.writeR8 .b v).readR16 .bc).toNat = 256 * v.toNat + s.c.toNat ∧
    ((s.writeR8 .c v).readR16 .bc).toNat = 256 * s.b.toNat + v.toNat ∧
    ((s.writeR8 .d v).readR16 .de).toNat = 256 * v.toNat + s.e.toNat ∧
    ((s.writeR8 .e v).readR16 .de).toNat = 256 * s.d.toNat + v.toNat ∧
    ((s.writeR8 .h v).readR16 .hl).toNat = 256 * v.toNat + s.l.toNat ∧
    ((s.writeR8 .l v).readR16 .hl).toNat = 256 * s.h.toNat + v.toNat

/-- R15, R16: the bits of the flag byte, and the two round-trip laws. -/
def Obligations.FlagByteMappingRoundTrips : Prop :=
  (∀ b : Byte,
    (Flags.ofByte b).z = decide (b.toNat / 128 % 2 = 1) ∧ (Flags.ofByte b).n = decide (b.toNat / 64 % 2 = 1) ∧
    (Flags.ofByte b).h = decide (b.toNat / 32 % 2 = 1) ∧ (Flags.ofByte b).c = decide (b.toNat / 16 % 2 = 1) ∧
    (Flags.ofByte b).toByte = b &&& 0xF0#8) ∧
  ∀ f : Flags,
    f.toByte.toNat = 128 * f.z.toNat + 64 * f.n.toNat + 32 * f.h.toNat + 16 * f.c.toNat ∧
    Flags.ofByte f.toByte = f

/-- R20, R21: the pairs BC, DE and HL are composed of their halves, high byte first, and a write decomposes into both
halves, reads back, and changes nothing else. -/
def Obligations.PairedViewsComposeAndDecompose : Prop :=
  ∀ (s : State) (v : Word),
    (s.readR16 .bc).toNat = 256 * s.b.toNat + s.c.toNat ∧
    (s.readR16 .de).toNat = 256 * s.d.toNat + s.e.toNat ∧
    (s.readR16 .hl).toNat = 256 * s.h.toNat + s.l.toNat ∧
    s.writeR16 .bc v = { s with b := BitVec.ofNat 8 (v.toNat / 256), c := BitVec.ofNat 8 v.toNat } ∧
    s.writeR16 .de v = { s with d := BitVec.ofNat 8 (v.toNat / 256), e := BitVec.ofNat 8 v.toNat } ∧
    s.writeR16 .hl v = { s with h := BitVec.ofNat 8 (v.toNat / 256), l := BitVec.ofNat 8 v.toNat } ∧
    (s.writeR16 .bc v).readR16 .bc = v ∧ (s.writeR16 .de v).readR16 .de = v ∧ (s.writeR16 .hl v).readR16 .hl = v

/-- R22, R23: AF is A above the flag byte; a write of AF passes its low byte through the flags, so that only the top
nibble of it survives, and changes nothing else. -/
def Obligations.AfViewKeepsOnlyTheTopNibble : Prop :=
  ∀ (s : State) (v : Word),
    (s.readView .af).toNat = 256 * s.a.toNat + s.f.toByte.toNat ∧
    s.readView .af &&& 0x000F#16 = 0#16 ∧
    s.writeView .af v = { s with
      a := BitVec.ofNat 8 (v.toNat / 256),
      f := ⟨v.getLsbD 7, v.getLsbD 6, v.getLsbD 5, v.getLsbD 4⟩ } ∧
    (s.writeView .af v).readView .af = (v &&& 0xFF00#16) ||| (v &&& 0x00F0#16)

/-- R19 (its write of F alone is the spec's own decision D9): the byte view of F reads `to_byte(F)`, a write of it
goes through `from_byte` and reads back `v & 0xF0`; no other item changes. -/
def Obligations.FlagViewDropsTheLowNibble : Prop :=
  ∀ (s : State) (v : Byte),
    (s.readView .f).toNat = 128 * s.f.z.toNat + 64 * s.f.n.toNat + 32 * s.f.h.toNat + 16 * s.f.c.toNat ∧
    s.writeView .f (v.setWidth 16) = { s with f := Flags.ofByte v } ∧
    (s.writeView .f (v.setWidth 16)).readView .f = (v &&& 0xF0#8).setWidth 16

/-- R24: SP and PC read as stored, and a write of either stores the 16-bit value unchanged and nothing else. -/
def Obligations.SpAndPcAreStoredUnchanged : Prop :=
  ∀ (s : State) (v : Word),
    s.readView .sp = s.sp ∧ s.readR16 .sp = s.sp ∧ s.readView .pc = s.pc ∧
    s.writeView .sp v = { s with sp := v } ∧ s.writeR16 .sp v = { s with sp := v } ∧
    s.writeView .pc v = { s with pc := v }

/-! ### The register port -/

/-- R61 with the identifiers of R30, which are the spec's own decision D8: a legal register-port write is a request
that writes `data[7:0]` into an 8-bit view (the high byte being zero) or `data` into a 16-bit one, and nothing else;
the request alone is taken from the stream, whose place in State is the model's choice (notes/assumptions/1.md). -/
def Obligations.RegisterPortWriteExecutes : Prop :=
  ∀ (s : State) (v : Byte) (w : Word) (rest : List Request),
    let next (r : Request) (t : State) : Prop := step (s.setPending (r :: rest)) = .next { t with pending := rest }
    next (.regWrite 0#4 (v.setWidth 16)) { s with b := v } ∧
    next (.regWrite 1#4 (v.setWidth 16)) { s with c := v } ∧
    next (.regWrite 2#4 (v.setWidth 16)) { s with d := v } ∧
    next (.regWrite 3#4 (v.setWidth 16)) { s with e := v } ∧
    next (.regWrite 4#4 (v.setWidth 16)) { s with h := v } ∧
    next (.regWrite 5#4 (v.setWidth 16)) { s with l := v } ∧
    next (.regWrite 6#4 (v.setWidth 16)) { s with f := Flags.ofByte v } ∧
    next (.regWrite 7#4 (v.setWidth 16)) { s with a := v } ∧
    next (.regWrite 8#4 w) { s with b := BitVec.ofNat 8 (w.toNat / 256), c := BitVec.ofNat 8 w.toNat } ∧
    next (.regWrite 9#4 w) { s with d := BitVec.ofNat 8 (w.toNat / 256), e := BitVec.ofNat 8 w.toNat } ∧
    next (.regWrite 10#4 w) { s with h := BitVec.ofNat 8 (w.toNat / 256), l := BitVec.ofNat 8 w.toNat } ∧
    next (.regWrite 11#4 w) { s with sp := w } ∧
    next (.regWrite 12#4 w) { s with
      a := BitVec.ofNat 8 (w.toNat / 256), f := ⟨w.getLsbD 7, w.getLsbD 6, w.getLsbD 5, w.getLsbD 4⟩ } ∧
    next (.regWrite 13#4 w) { s with pc := w }

/-- R29 with the identifiers of R30, which are the spec's own decision D8: what a register-port read returns; an 8-bit
view reads with bits 15 to 8 zero. -/
def Obligations.RegisterPortReadReturnsTheView : Prop :=
  ∀ s : State,
    s.portRead 0#4 = some (s.b.setWidth 16) ∧ s.portRead 1#4 = some (s.c.setWidth 16) ∧
    s.portRead 2#4 = some (s.d.setWidth 16) ∧ s.portRead 3#4 = some (s.e.setWidth 16) ∧
    s.portRead 4#4 = some (s.h.setWidth 16) ∧ s.portRead 5#4 = some (s.l.setWidth 16) ∧
    s.portRead 6#4 = some (s.f.toByte.setWidth 16) ∧ s.portRead 7#4 = some (s.a.setWidth 16) ∧
    s.portRead 8#4 = some (BitVec.ofNat 16 (256 * s.b.toNat + s.c.toNat)) ∧
    s.portRead 9#4 = some (BitVec.ofNat 16 (256 * s.d.toNat + s.e.toNat)) ∧
    s.portRead 10#4 = some (BitVec.ofNat 16 (256 * s.h.toNat + s.l.toNat)) ∧
    s.portRead 11#4 = some s.sp ∧
    s.portRead 12#4 = some (BitVec.ofNat 16 (256 * s.a.toNat + s.f.toByte.toNat)) ∧
    s.portRead 13#4 = some s.pc

/-- R62 (the spec's own decision D8): a register-port write of a reserved view, or with a non-zero high byte on an
8-bit view, is refused, and a read of a reserved view returns no value. -/
def Obligations.RegisterPortRefusesReservedViews : Prop :=
  (∀ (s : State) (id : ViewId) (data : Word) (rest : List Request),
    (14 ≤ id.toNat ∨ (id.toNat < 8 ∧ 256 ≤ data.toNat)) →
      ∃ why, step (s.setPending (.regWrite id data :: rest)) = .refused (.illegalRegWrite why)) ∧
  ∀ (s : State) (id : ViewId), 14 ≤ id.toNat → s.portRead id = none

/-! ### Encoding -/

/-- The encoding of R50 to R60 is the spec's own choice (D3 to D7); by it the decoder and the encoder are inverse: a
word decodes to an instruction exactly when it is that instruction's word. So no operand bit is dropped and no two
words mean one instruction. -/
def Obligations.DecodeAndEncodeAgree : Prop :=
  ∀ (w : CommandWord) (i : Instr), decode w = .ok i ↔ encode i = w

/-- R60 (the spec's own decision D7): a word is legal when it matches a row of R53, the legal words are in one-to-one
correspondence with the typed invocations, the illegal words are exactly those listed, and one that is presented is
refused. The fields are `op` = bits 23:19, `sel` = bits 18:16 and `imm` = bits 15:0 (R51). -/
def Obligations.LegalWordsAreExactlyTheEncodings : Prop :=
  (∀ w : CommandWord, legalCommand w = true ↔ ∃! i, encode i = w) ∧
  (∀ w : CommandWord, legalCommand w = true ↔ ∃ i, decode w = .ok i) ∧
  (∀ w : CommandWord,
    let op := w.toNat / 2 ^ 19
    let sel := w.toNat / 2 ^ 16 % 8
    let imm := w.toNat % 2 ^ 16
    legalCommand w = false ↔
      0x15 ≤ op ∨
      (op ∈ [0x00, 0x01, 0x02, 0x0C, 0x0D] ∧ sel = 6) ∨
      (op ∈ [0x03, 0x10, 0x11, 0x12] ∧ 4 ≤ sel) ∨
      (op ∈ [0x04, 0x05, 0x06, 0x07, 0x08, 0x09, 0x0A, 0x0B, 0x0E, 0x0F, 0x13, 0x14] ∧ sel ≠ 0) ∨
      (op ∈ [0x00, 0x01, 0x02, 0x04, 0x05, 0x06, 0x07, 0x08, 0x09, 0x0A, 0x0B, 0x13, 0x14] ∧ 256 ≤ imm) ∨
      (op ∈ [0x0C, 0x0D, 0x0E, 0x0F, 0x10, 0x11, 0x12] ∧ imm ≠ 0)) ∧
  ∀ (w : CommandWord) (s : State) (rest : List Request), legalCommand w = false →
    ∃ why, step (s.setPending (.command w :: rest)) = .refused (.illegalCommand why)

/-- 30_encoding.md section 7, "Worked encodings": each word decodes to its request, and each illegal word beside them
is rejected. The spec gives no names of reasons for a rejection: the reasons in the last six clauses, and which comes
first, are the model's choice (notes/assumptions/4.md). -/
def Obligations.WorkedEncodingsDecode : Prop :=
  decode 0x070019#24 = .ok (.ld .a 0x19#8) ∧ decode 0x0F005A#24 = .ok (.ldi .a 0x5A#8) ∧
  decode 0x100077#24 = .ok (.ldd .b 0x77#8) ∧ decode 0x1A0FFF#24 = .ok (.ldU16 .hl 0x0FFF#16) ∧
  decode 0x1BFFF8#24 = .ok (.ldU16 .sp 0xFFF8#16) ∧ decode 0x200028#24 = .ok (.add 0x28#8) ∧
  decode 0x380001#24 = .ok (.sbc 0x01#8) ∧ decode 0x650000#24 = .ok (.inc .l) ∧
  decode 0x6F0000#24 = .ok (.dec .a) ∧ decode 0x700000#24 = .ok .daa ∧ decode 0x780000#24 = .ok .cpl ∧
  decode 0x800000#24 = .ok (.addHl .bc) ∧ decode 0x830000#24 = .ok (.addHl .sp) ∧
  decode 0x920000#24 = .ok (.decU16 .hl) ∧ decode 0x9800F8#24 = .ok (.addSp 0xF8#8) ∧
  decode 0xA00008#24 = .ok (.ldHl 0x08#8) ∧
  decode 0x060019#24 = .error .reservedRegister ∧ decode 0x210028#24 = .error .unusedBitSet ∧
  decode 0x200128#24 = .error .unusedBitSet ∧ decode 0x840000#24 = .error .unusedBitSet ∧
  decode 0x700001#24 = .error .unusedBitSet ∧ decode 0xA80000#24 = .error .reservedOp

/-- 30_encoding.md section 6, which the spec derives from R52 to R60: the decoder accepts 270108 of the 16777216
words. -/
def Obligations.DecoderAcceptsTheCountedWords : Prop :=
  Nat.card { w : CommandWord // ∃ i, decode w = .ok i } = 270108

/-! ### Steps and requests -/

/-- R70 (that requests form one serial stream is the spec's own decision D2; that the stream is held in State is the
model's choice, notes/assumptions/1.md): a step whose next request is a command that decodes to `i` is `exec i` at the
state that remains when the request has been taken from the stream; the table word placed by `withFetchWord` is run
the same way, first (notes/assumptions/3.md). -/
def Obligations.StepExecutesTheDecodedCommand : Prop :=
  (∀ (s : State) (w : CommandWord) (i : Instr) (rest : List Request), decode w = .ok i →
    step (s.setPending (.command w :: rest)) = exec i (s.setPending rest)) ∧
  ∀ (s : State) (w : CommandWord) (i : Instr), decode w = .ok i → step (s.withFetchWord 24 w.toNat) = exec i s

/-- R150 (the spec's own decision D18): "Reset is a request that sets the whole state to the values" of R27, "whatever
the state was". That a reset request keeps the requests behind it is the model's choice (notes/assumptions/1.md). -/
def Obligations.ResetRequestZeroesTheState : Prop :=
  ∀ (s : State) (rest : List Request), ∃ t, step (s.setPending (.reset :: rest)) = .next t ∧
    (∀ r : R8, t.readR8 r = 0#8) ∧ t.f = ⟨false, false, false, false⟩ ∧ t.sp = 0#16 ∧ t.pc = 0#16 ∧ t.pending = rest

/-- R79: with no request presented the state is held. That such a step exists at all is the model's choice
(notes/assumptions/2.md). -/
def Obligations.IdleStepHoldsTheState : Prop :=
  ∀ s : State, step (s.setPending []) = .next (s.setPending [])

/-- R71: every legal request completes, whole, in one step. Which requests are legal is the spec's own decision (D7 for
command words, D8 for the register port); that the step takes this request and no other from the stream, a reset
request included, is the model's choice (notes/assumptions/1.md). -/
def Obligations.EveryLegalRequestCompletes : Prop :=
  ∀ (s : State) (r : Request) (rest : List Request), r.wellFormed = true →
    ∃ t, step (s.setPending (r :: rest)) = .next t ∧ t.pending = rest

/-- R130, R131 (refusal is the spec's own decision, D7 and D8): a step never faults, and it is refused exactly when the
next request is illegal. The first clause holds because the model's type of faults is empty, which is the model's
inference (notes/assumptions/6.md); that a step with no request waiting is not refused is another one
(notes/assumptions/2.md). -/
def Obligations.OnlyIllegalRequestsAreRefused : Prop :=
  (∀ (s : State) (x : Fault), step s ≠ .fault x) ∧
  ∀ s : State, (∃ why, step s = .refused why) ↔ ∃ r rest, s.pending = r :: rest ∧ r.wellFormed = false

/-- The requests that wait stay legal from step to step (R74; legality is the spec's own decision, D7 and D8, and the
waiting list is the model's choice, notes/assumptions/1.md): an invariant over every state. -/
def Obligations.LegalStreamStaysLegal : Prop :=
  ∀ s t : State, s.Legal → step s = .next t → t.Legal

/-- The invariant of `LegalStreamStaysLegal` holds after reset, where nothing has been presented, and a dispatcher
that presents legal requests keeps it (R74; legality is the spec's own decision, D7 and D8). That nothing waits right
after reset is the model's choice (notes/assumptions/1.md). -/
def Obligations.LegalStreamAtReset : Prop :=
  State.reset.Legal ∧ ∀ (s : State) (rs : List Request), s.Legal → (∀ r ∈ rs, r.wellFormed = true) → (s.present rs).Legal

/-- R71, R74: from every state whose waiting requests are legal, a run of any length completes. Where the run is longer
than the waiting stream, its further steps are idle ones, and that an idle step answers a next state is the model's
inference (notes/assumptions/2.md). -/
def Obligations.LegalRunsNeverStop : Prop :=
  ∀ (n : Nat) (s : State), s.Legal → RunsSafely n s

/-- R46: requests are executed one at a time in the order presented; what is presented later changes nothing of the
effect of what is presented before, and continues from exactly the state it left. That the requests wait in a list of
State, of which a step takes one, so that the list is empty after as many steps, is the model's choice
(notes/assumptions/1.md). -/
def Obligations.LaterRequestsDoNotAffectEarlierOnes : Prop :=
  ∀ (earlier later : List Request) (s t : State),
    Host.Core.run Sys2Proof.core earlier.length (s.setPending earlier) = .next t →
      t.pending = [] ∧
      Host.Core.run Sys2Proof.core earlier.length (s.setPending (earlier ++ later)) = .next (t.setPending later) ∧
      Host.Core.run Sys2Proof.core (earlier.length + later.length) (s.setPending (earlier ++ later)) =
        Host.Core.run Sys2Proof.core later.length (t.setPending later)

/-! ### Loads -/

/-- R80, `ld r, v`: the register takes the literal; no flag and no other item changes. -/
def Obligations.LdWritesTheRegister : Prop :=
  ∀ (s : State) (r : R8) (v : Byte),
    (encode (.ld r v)).toNat = 0x000000 + 0x10000 * r8Code r + v.toNat ∧
    ∃ t, exec (.ld r v) s = .next t ∧
      t.readR8 r = v ∧ (∀ r', r' ≠ r → t.readR8 r' = s.readR8 r') ∧
      t.f = s.f ∧ t.sp = s.sp ∧ t.pc = s.pc ∧ t.pending = s.pending

/-- R81 (that `ldi` takes the operands of `ld`, H and L among them, is the spec's decision D11), `ldi r, v`: the same
write as `ld`, then HL + 1 modulo 2^16 on the pair as the write left it; no flag and no other item changes. -/
def Obligations.LdiLoadsThenIncrementsHl : Prop :=
  ∀ (s : State) (r : R8) (v : Byte),
    let h₁ := if r = .h then v else s.h
    let l₁ := if r = .l then v else s.l
    (encode (.ldi r v)).toNat = 0x080000 + 0x10000 * r8Code r + v.toNat ∧
    ∃ t, exec (.ldi r v) s = .next t ∧
      (t.readR16 .hl).toNat = (256 * h₁.toNat + l₁.toNat + 1) % 2 ^ 16 ∧
      (∀ r', r' ≠ .h → r' ≠ .l → t.readR8 r' = if r' = r then v else s.readR8 r') ∧
      t.f = s.f ∧ t.sp = s.sp ∧ t.pc = s.pc ∧ t.pending = s.pending

/-- R82 (operands as decided in D11, direction as ruled in D12 and C1), `ldd r, v`: the same write as `ld`, then HL -
1 modulo 2^16 on the pair as the write left it; no flag and no other item changes. -/
def Obligations.LddLoadsThenDecrementsHl : Prop :=
  ∀ (s : State) (r : R8) (v : Byte),
    let h₁ := if r = .h then v else s.h
    let l₁ := if r = .l then v else s.l
    (encode (.ldd r v)).toNat = 0x100000 + 0x10000 * r8Code r + v.toNat ∧
    ∃ t, exec (.ldd r v) s = .next t ∧
      ((t.readR16 .hl).toNat : Int) = ((256 * h₁.toNat + l₁.toNat : Int) - 1) % 2 ^ 16 ∧
      (∀ r', r' ≠ .h → r' ≠ .l → t.readR8 r' = if r' = r then v else s.readR8 r') ∧
      t.f = s.f ∧ t.sp = s.sp ∧ t.pc = s.pc ∧ t.pending = s.pending

/-- R83 (that no flag is written is the spec's own decision D10), `ld_u16 rr, w`: the 16-bit register takes the
literal; no flag and no other item changes. -/
def Obligations.LdU16WritesThePair : Prop :=
  ∀ (s : State) (rr : R16) (w : Word),
    (encode (.ldU16 rr w)).toNat = 0x180000 + 0x10000 * r16Code rr + w.toNat ∧
    ∃ t, exec (.ldU16 rr w) s = .next t ∧
      t.readR16 rr = w ∧ (∀ rr', rr' ≠ rr → t.readR16 rr' = s.readR16 rr') ∧
      t.a = s.a ∧ t.f = s.f ∧ t.pc = s.pc ∧ t.pending = s.pending

/-! ### 8-bit arithmetic and logic -/

/-- R90, `add v` -/
def Obligations.AddResultAndFlags : Prop :=
  ∀ (s : State) (v : Byte),
    let t := s.a.toNat + v.toNat
    (encode (.add v)).toNat = 0x200000 + v.toNat ∧
    exec (.add v) s = .next { s with
      a := s.a + v,
      f := { z := decide (t % 2 ^ 8 = 0), n := false,
             h := decide (s.a.toNat % 16 + v.toNat % 16 > 0xF), c := decide (t > 0xFF) } }

/-- R91, `adc v` -/
def Obligations.AdcResultAndFlags : Prop :=
  ∀ (s : State) (v : Byte),
    let cin := if s.f.c then 1 else 0
    let t := s.a.toNat + v.toNat + cin
    (encode (.adc v)).toNat = 0x280000 + v.toNat ∧
    exec (.adc v) s = .next { s with
      a := BitVec.ofNat 8 t,
      f := { z := decide (t % 2 ^ 8 = 0), n := false,
             h := decide (s.a.toNat % 16 + v.toNat % 16 + cin > 0xF), c := decide (t > 0xFF) } }

/-- R92, `sub v` -/
def Obligations.SubResultAndFlags : Prop :=
  ∀ (s : State) (v : Byte),
    (encode (.sub v)).toNat = 0x300000 + v.toNat ∧
    exec (.sub v) s = .next { s with
      a := s.a - v,
      f := { z := decide (s.a = v), n := true,
             h := decide (s.a.toNat % 16 < v.toNat % 16), c := decide (s.a.toNat < v.toNat) } }

/-- R93 (the nibble test is the spec's own decision D14), `sbc v`: a sum, with the sum's carry; n is set and h is the
nibble borrow test with the carry-in. -/
def Obligations.SbcAddsAndSetsSubtraction : Prop :=
  ∀ (s : State) (v : Byte),
    let cin := if s.f.c then 1 else 0
    let t := s.a.toNat + v.toNat + cin
    (encode (.sbc v)).toNat = 0x380000 + v.toNat ∧
    exec (.sbc v) s = .next { s with
      a := BitVec.ofNat 8 t,
      f := { z := decide (t % 2 ^ 8 = 0), n := true,
             h := decide (s.a.toNat % 16 < v.toNat % 16 + cin), c := decide (t > 0xFF) } }

/-- R94, `and v`: half_carry is forced true. -/
def Obligations.AndResultAndFlags : Prop :=
  ∀ (s : State) (v : Byte),
    (encode (.and v)).toNat = 0x400000 + v.toNat ∧
    exec (.and v) s = .next { s with
      a := s.a &&& v, f := { z := decide (s.a &&& v = 0#8), n := false, h := true, c := false } }

/-- R95, `xor v` -/
def Obligations.XorResultAndFlags : Prop :=
  ∀ (s : State) (v : Byte),
    (encode (.xor v)).toNat = 0x480000 + v.toNat ∧
    exec (.xor v) s = .next { s with
      a := s.a ^^^ v, f := { z := decide (s.a = v), n := false, h := false, c := false } }

/-- R96, `or v` -/
def Obligations.OrResultAndFlags : Prop :=
  ∀ (s : State) (v : Byte),
    (encode (.or v)).toNat = 0x500000 + v.toNat ∧
    exec (.or v) s = .next { s with
      a := s.a ||| v, f := { z := decide (s.a = 0#8 ∧ v = 0#8), n := false, h := false, c := false } }

/-- R97 (its nibble test is derived by the spec from R92, D28), `cp v`: A is not written. -/
def Obligations.CpSetsFlagsOnly : Prop :=
  ∀ (s : State) (v : Byte),
    (encode (.cp v)).toNat = 0x580000 + v.toNat ∧
    exec (.cp v) s = .next { s with
      f := { z := decide (s.a = v), n := true,
             h := decide (s.a.toNat % 16 < v.toNat % 16), c := decide (s.a.toNat < v.toNat) } }

/-- R98, `inc r`: carry is kept; no other register and no other item changes. -/
def Obligations.IncResultAndFlags : Prop :=
  ∀ (s : State) (r : R8),
    let x := (s.readR8 r).toNat
    (encode (.inc r)).toNat = 0x600000 + 0x10000 * r8Code r ∧
    ∃ t, exec (.inc r) s = .next t ∧
      (t.readR8 r).toNat = (x + 1) % 2 ^ 8 ∧ (∀ r', r' ≠ r → t.readR8 r' = s.readR8 r') ∧
      t.f = { z := decide (x = 0xFF), n := false, h := decide (x % 16 = 0xF), c := s.f.c } ∧
      t.sp = s.sp ∧ t.pc = s.pc ∧ t.pending = s.pending

/-- R99, `dec r`: carry is kept; no other register and no other item changes. -/
def Obligations.DecResultAndFlags : Prop :=
  ∀ (s : State) (r : R8),
    let x := (s.readR8 r).toNat
    (encode (.dec r)).toNat = 0x680000 + 0x10000 * r8Code r ∧
    ∃ t, exec (.dec r) s = .next t ∧
      ((t.readR8 r).toNat : Int) = ((x : Int) - 1) % 2 ^ 8 ∧ (∀ r', r' ≠ r → t.readR8 r' = s.readR8 r') ∧
      t.f = { z := decide (x = 0x01), n := true, h := decide (x % 16 = 0), c := s.f.c } ∧
      t.sp = s.sp ∧ t.pc = s.pc ∧ t.pending = s.pending

/-! ### Decimal adjust and complement -/

/-- R110 (the reading of the source's sentence is the spec's own, D16), `daa`: both conditions on A and the flags
before the operation; z and c from the corrected A; n and h kept. -/
def Obligations.DaaResultAndFlags : Prop :=
  ∀ s : State,
    let a := s.a.toNat
    let adj := (if s.f.c = true ∨ a > 0x9F then 0x60 else 0) + (if s.f.h = true ∨ a % 16 > 0x09 then 0x06 else 0)
    let t : Nat := if s.f.n then (a + 256 - adj) % 2 ^ 8 else (a + adj) % 2 ^ 8
    (encode .daa).toNat = 0x700000 ∧
    exec .daa s = .next { s with
      a := BitVec.ofNat 8 t,
      f := { z := decide (t = 0), n := s.f.n, h := s.f.h, c := decide (t > 0x99) } }

/-- R111, `cpl`: n and h are forced true; z and c are kept. -/
def Obligations.CplComplementsA : Prop :=
  ∀ s : State,
    (encode .cpl).toNat = 0x780000 ∧
    exec .cpl s = .next { s with
      a := BitVec.ofNat 8 (0xFF - s.a.toNat), f := { z := s.f.z, n := true, h := true, c := s.f.c } }

/-! ### 16-bit arithmetic -/

/-- R120, `add_hl rr`: both addends before the operation; z is kept; no register but H and L changes. -/
def Obligations.AddHlResultAndFlags : Prop :=
  ∀ (s : State) (rr : R16),
    let hl := (s.readR16 .hl).toNat
    let q := (s.readR16 rr).toNat
    (encode (.addHl rr)).toNat = 0x800000 + 0x10000 * r16Code rr ∧
    ∃ t, exec (.addHl rr) s = .next t ∧
      (t.readR16 .hl).toNat = (hl + q) % 2 ^ 16 ∧ (∀ rr', rr' ≠ .hl → t.readR16 rr' = s.readR16 rr') ∧
      t.f = { z := s.f.z, n := false, h := h16 hl q, c := decide (hl + q > 0xFFFF) } ∧
      t.a = s.a ∧ t.b = s.b ∧ t.c = s.c ∧ t.d = s.d ∧ t.e = s.e ∧ t.pc = s.pc ∧ t.pending = s.pending

/-- R121, `inc_u16 rr`: no flag and no other item changes. -/
def Obligations.IncU16Result : Prop :=
  ∀ (s : State) (rr : R16),
    (encode (.incU16 rr)).toNat = 0x880000 + 0x10000 * r16Code rr ∧
    ∃ t, exec (.incU16 rr) s = .next t ∧
      (t.readR16 rr).toNat = ((s.readR16 rr).toNat + 1) % 2 ^ 16 ∧
      (∀ rr', rr' ≠ rr → t.readR16 rr' = s.readR16 rr') ∧
      t.a = s.a ∧ t.f = s.f ∧ t.pc = s.pc ∧ t.pending = s.pending

/-- R122, `dec_u16 rr`: no flag and no other item changes. -/
def Obligations.DecU16Result : Prop :=
  ∀ (s : State) (rr : R16),
    (encode (.decU16 rr)).toNat = 0x900000 + 0x10000 * r16Code rr ∧
    ∃ t, exec (.decU16 rr) s = .next t ∧
      ((t.readR16 rr).toNat : Int) = (((s.readR16 rr).toNat : Int) - 1) % 2 ^ 16 ∧
      (∀ rr', rr' ≠ rr → t.readR16 rr' = s.readR16 rr') ∧
      t.a = s.a ∧ t.f = s.f ∧ t.pc = s.pc ∧ t.pending = s.pending

/-- R123 (that c is the 16-bit unsigned overflow is the spec's own decision D17), `add_sp e`: z and n are always
false; H, L and every other item but SP and F are kept. -/
def Obligations.AddSpResultAndFlags : Prop :=
  ∀ (s : State) (e : Byte),
    let sp := s.sp.toNat
    let q := signExtended e
    (encode (.addSp e)).toNat = 0x980000 + e.toNat ∧
    exec (.addSp e) s = .next { s with
      sp := BitVec.ofNat 16 (sp + q),
      f := { z := false, n := false, h := h16 sp q, c := decide (sp + q > 0xFFFF) } }

/-- R124 (c as decided in D17), `ld_hl e`: the computation of `add_sp` written to HL; SP and every other item but F
are kept. -/
def Obligations.LdHlResultAndFlags : Prop :=
  ∀ (s : State) (e : Byte),
    let sp := s.sp.toNat
    let q := signExtended e
    let t := (sp + q) % 2 ^ 16
    (encode (.ldHl e)).toNat = 0xA00000 + e.toNat ∧
    exec (.ldHl e) s = .next { s with
      h := BitVec.ofNat 8 (t / 256), l := BitVec.ofNat 8 t,
      f := { z := false, n := false, h := h16 sp q, c := decide (sp + q > 0xFFFF) } }

/-! ### Whole-machine rules -/

/-- R26 (a table the spec derives from R80 to R124): a register or flag not listed for an operation is neither written
by it (its value is kept; the flags it writes are its mask of R77) nor read by it (two states that agree on what the
operation reads get the same values in everything it writes). -/
def Obligations.OperationsAccessOnlyTheirRegisters : Prop :=
  ∀ (i : Instr) (s₁ s₂ : State), ∃ t₁ t₂ : State,
    exec i s₁ = .next t₁ ∧ exec i s₂ = .next t₂ ∧
    (∀ r, writesR8 i r = false → t₁.readR8 r = s₁.readR8 r) ∧ (writesSp i = false → t₁.sp = s₁.sp) ∧
    t₁.pc = s₁.pc ∧ t₁.pending = s₁.pending ∧
    ((flagMask i).z = false → t₁.f.z = s₁.f.z) ∧ ((flagMask i).n = false → t₁.f.n = s₁.f.n) ∧
    ((flagMask i).h = false → t₁.f.h = s₁.f.h) ∧ ((flagMask i).c = false → t₁.f.c = s₁.f.c) ∧
    ((∀ r, readsR8 i r = true → s₁.readR8 r = s₂.readR8 r) → (readsSp i = true → s₁.sp = s₂.sp) →
      sameFlagsRead i s₁.f s₂.f →
      (∀ r, writesR8 i r = true → t₁.readR8 r = t₂.readR8 r) ∧ (writesSp i = true → t₁.sp = t₂.sp) ∧
      ((flagMask i).z = true → t₁.f.z = t₂.f.z) ∧ ((flagMask i).n = true → t₁.f.n = t₂.f.n) ∧
      ((flagMask i).h = true → t₁.f.h = t₂.f.h) ∧ ((flagMask i).c = true → t₁.f.c = t₂.f.c))

/-- R77 (the row of `ld_u16` is the spec's own decision D10): "A flag outside the mask keeps its pre-op value
exactly". -/
def Obligations.FlagsOutsideTheMaskAreKept : Prop :=
  ∀ (i : Instr) (s : State), ∃ t, exec i s = .next t ∧
    ((flagMask i).z = false → t.f.z = s.f.z) ∧ ((flagMask i).n = false → t.f.n = s.f.n) ∧
    ((flagMask i).h = false → t.f.h = s.f.h) ∧ ((flagMask i).c = false → t.f.c = s.f.c)

/-- R14: no operation reads or writes PC; it holds whatever was last stored through the register port, or its reset
value, and does not advance when a command executes. In the second clause, that the port writes PC under identifier
13 is the spec's own decision D8 (R30), that reset is a request is its decision D18 (R150), and that requests wait in
State is the model's choice (notes/assumptions/1.md). -/
def Obligations.OnlyThePortAndResetWritePc : Prop :=
  (∀ (i : Instr) (s : State) (p : Word), ∃ t, exec i s = .next t ∧ t.pc = s.pc ∧
    exec i { s with pc := p } = .next { t with pc := p }) ∧
  (∀ (s t : State) (r : Request) (rest : List Request), step (s.setPending (r :: rest)) = .next t →
    t.pc = match r with
      | .command _ => s.pc
      | .regWrite id data => if id = 13#4 then data else s.pc
      | .reset => 0#16)

/-! ### Arithmetic laws and relations between operations -/

/-- R6 (its last sentence is derived by the spec): the sums and differences wrap, and the source's wrapping nibble
test `X − Y > 0xF` is the test `X < Y` that the flags use. -/
def Obligations.ArithmeticWraps : Prop :=
  (∀ (x y : Byte) (cin : Nat), (sum8 x y cin).toNat = (x.toNat + y.toNat + cin) % 2 ^ 8) ∧
  (∀ x y : Byte, ((diff8 x y).toNat : Int) = ((x.toNat : Int) - y.toNat) % 2 ^ 8) ∧
  (∀ x y : Word, (sum16 x y).toNat = (x.toNat + y.toNat) % 2 ^ 16) ∧
  (∀ x y : Word, ((diff16 x y).toNat : Int) = ((x.toNat : Int) - y.toNat) % 2 ^ 16) ∧
  ∀ x y : Byte, halfBorrow8 x y 0 = decide (((x &&& 0x0F#8) - (y &&& 0x0F#8)).toNat > 0xF)

/-- R125: H16 is the source's formula, equals the nibble form, and does not see a carry out of the low byte. -/
def Obligations.SixteenBitHalfCarryFormula : Prop :=
  (∀ x y : Word,
    half16 x y = decide ((x &&& 0x0F00#16).toNat + (y &&& 0x0F00#16).toNat > 0x0F00) ∧
    half16 x y = decide (nibble11to8 x + nibble11to8 y > 15) ∧
    half16 x y = half16 (x &&& 0xFF00#16) (y &&& 0xFF00#16)) ∧
  half16 0x0FFF#16 0x0001#16 = false

/-- R91's note: the source's two wrapping steps, with carry the OR of their overflows, give the result and the carry
of the one-step sum, in `adc` and in `sbc`; the two overflows are never both true. -/
def Obligations.TwoStepAdditionAgrees : Prop :=
  ∀ (s : State) (v : Byte),
    let cin : Byte := if s.f.c then 1#8 else 0#8
    let o₁ := decide (s.a.toNat + v.toNat > 0xFF)
    let o₂ := decide ((s.a + v).toNat + cin.toNat > 0xFF)
    (o₁ && o₂) = false ∧
    ∃ t u, exec (.adc v) s = .next t ∧ exec (.sbc v) s = .next u ∧
      t.a = (s.a + v) + cin ∧ u.a = t.a ∧ t.f.c = (o₁ || o₂) ∧ u.f.c = t.f.c

/-- 95_test_vectors.md PR-6: `adc` with the carry clear is `add`; `cp` gives the flags of `sub` and leaves A. -/
def Obligations.AdcWithoutCarryIsAddAndCpIsSub : Prop :=
  ∀ (s : State) (v : Byte),
    exec (.adc v) (s.setFlags { s.f with c := false }) = exec (.add v) s ∧
    ∃ t u, exec (.cp v) s = .next t ∧ exec (.sub v) s = .next u ∧ t = { u with a := s.a }

/-- 95_test_vectors.md PR-7 and S9: `or 0x00` twice is `or 0x00` once, and leaves A; `cpl` twice restores A, with the
flags of the first. -/
def Obligations.OrZeroIsIdempotentAndCplIsInvolutive : Prop :=
  ∀ s : State,
    (∃ t, exec (.or 0x00#8) s = .next t ∧ t.a = s.a ∧ exec (.or 0x00#8) t = .next t) ∧
    ∃ t u, exec .cpl s = .next t ∧ exec .cpl t = .next u ∧ u.a = s.a ∧ u.f = t.f

/-- 95_test_vectors.md PR-8: `inc_u16 rr` and `dec_u16 rr` undo each other; `ldi r, v` then `dec_u16 HL`, and `ldd r,
v` then `inc_u16 HL`, are `ld r, v`, for every r, H and L included. -/
def Obligations.SixteenBitStepsUndoEachOther : Prop :=
  (∀ (s : State) (rr : R16),
    (∃ t, exec (.incU16 rr) s = .next t ∧ exec (.decU16 rr) t = .next s) ∧
    (∃ t, exec (.decU16 rr) s = .next t ∧ exec (.incU16 rr) t = .next s)) ∧
  ∀ (s : State) (r : R8) (v : Byte),
    (∃ t, exec (.ldi r v) s = .next t ∧ exec (.decU16 .hl) t = exec (.ld r v) s) ∧
    (∃ t, exec (.ldd r v) s = .next t ∧ exec (.incU16 .hl) t = exec (.ld r v) s)

/-- 95_test_vectors.md PR-9, PR-10 and R123's consequences: `add_sp` and `ld_hl` give one result and one F; for a
literal that is not negative h is false; for a negative one h says that bits 11 to 8 of SP are not all zero and c that
the subtraction does not borrow. -/
def Obligations.SpRelativeFormsAgree : Prop :=
  ∀ (s : State) (e : Byte), ∃ t u, exec (.addSp e) s = .next t ∧ exec (.ldHl e) s = .next u ∧
    t.sp = u.readR16 .hl ∧ t.f = u.f ∧
    (e.toNat < 128 → t.f.h = false ∧ t.f.c = decide (s.sp.toNat + e.toNat > 0xFFFF)) ∧
    (128 ≤ e.toNat → t.f.h = decide (nibble11to8 s.sp ≠ 0) ∧ t.f.c = decide (256 - e.toNat ≤ s.sp.toNat))

/-- 43_daa_cpl.md, "How daa composes with the arithmetic operations": where the decimal sum stays below 100, `add` of
two packed decimal numbers and then `daa` gives their decimal sum with carry clear; where the decimal difference is
not negative, `sub` and then `daa` gives the decimal difference. -/
def Obligations.DaaCorrectsDecimalSumsAndDifferences : Prop :=
  ∀ (s : State) (x y : Nat), x < 100 → y < 100 → s.a = bcd x →
    (x + y < 100 → ∃ t u, exec (.add (bcd y)) s = .next t ∧ exec .daa t = .next u ∧
      u.a = bcd (x + y) ∧ u.f.c = false ∧ u.f.z = decide (x + y = 0)) ∧
    (y ≤ x → ∃ t u, exec (.sub (bcd y)) s = .next t ∧ exec .daa t = .next u ∧
      u.a = bcd (x - y) ∧ u.f.c = false ∧ u.f.z = decide (x = y))

/-! ### Selector codes -/

/-- R54 and R55 (the spec's own decisions D5 and D6): the selector of a word names B, C, D, E, H, L and A by 0, 1, 2, 3,
4, 5 and 7, with 6 reserved, and BC, DE, HL and SP by 0, 1, 2 and 3; shown on the words of `ld` and `ld_u16` for every
literal. The codes are those of `r8Code` and `r16Code`, by which the statements of the operations give the words of
the other operations that select a register. -/
def Obligations.SelectorCodesNameTheRegisters : Prop :=
  ∀ (v : Byte) (w : Word),
    let ldWord (sel : Nat) : CommandWord := BitVec.ofNat 24 (0x000000 + 0x10000 * sel + v.toNat)
    let ldU16Word (sel : Nat) : CommandWord := BitVec.ofNat 24 (0x180000 + 0x10000 * sel + w.toNat)
    decode (ldWord 0) = .ok (.ld .b v) ∧ decode (ldWord 1) = .ok (.ld .c v) ∧ decode (ldWord 2) = .ok (.ld .d v) ∧
    decode (ldWord 3) = .ok (.ld .e v) ∧ decode (ldWord 4) = .ok (.ld .h v) ∧ decode (ldWord 5) = .ok (.ld .l v) ∧
    decode (ldWord 7) = .ok (.ld .a v) ∧ (∀ i, decode (ldWord 6) ≠ .ok i) ∧
    decode (ldU16Word 0) = .ok (.ldU16 .bc w) ∧ decode (ldU16Word 1) = .ok (.ldU16 .de w) ∧
    decode (ldU16Word 2) = .ok (.ldU16 .hl w) ∧ decode (ldU16Word 3) = .ok (.ldU16 .sp w) ∧
    (∀ r : R8, (encode (.ld r v)).toNat = 0x10000 * r8Code r + v.toNat) ∧
    ∀ rr : R16, (encode (.ldU16 rr w)).toNat = 0x180000 + 0x10000 * r16Code rr + w.toNat
end

