-- ==== Sys2Proof/Laws/Bits.lean ====
section
/-! SUPPORT. Concatenation of bit vectors as arithmetic, for the pairs of the register file and the fields of a command
word. -/

namespace Sys2Proof

theorem toNat_append_add {n m : Nat} (x : BitVec n) (y : BitVec m) :
    (x ++ y).toNat = x.toNat * 2 ^ m + y.toNat := by
  rw [BitVec.toNat_append, ← Nat.shiftLeft_add_eq_or_of_lt y.isLt, Nat.shiftLeft_eq]

end Sys2Proof
end

