-- ==== Sys2Proof/Laws/Arith.lean ====
section
/-! SUPPORT. One specification lemma per function of Machine/Flags.lean and per operand form: the narrowed values are
the bit-vector operations, and the tests are inequalities of `toNat`. -/

namespace Sys2Proof.Machine

/-! ### 8-bit -/

theorem sum8_eq (x y : Byte) (cin : Nat) : sum8 x y cin = x + y + BitVec.ofNat 8 cin := by
  apply BitVec.eq_of_toNat_eq
  simp [sum8, Nat.add_mod]

theorem sum8_zero (x y : Byte) : sum8 x y 0 = x + y := by simp [sum8_eq]

theorem toNat_sum8 (x y : Byte) (cin : Nat) : (sum8 x y cin).toNat = (x.toNat + y.toNat + cin) % 256 := by
  simp [sum8]

theorem diff8_eq (x y : Byte) : diff8 x y = x - y := by
  apply BitVec.eq_of_toNat_eq
  have := x.isLt; have := y.isLt
  simp only [diff8, BitVec.toNat_ofInt, BitVec.toNat_sub]
  omega

theorem nibble_eq (v : Byte) : nibble v = v.toNat % 16 := by
  simp only [nibble, BitVec.toNat_and, BitVec.toNat_ofNat]
  exact Nat.and_two_pow_sub_one_eq_mod v.toNat 4

theorem nibble_lt (v : Byte) : nibble v < 16 := by rw [nibble_eq]; omega

theorem isZero_iff (v : Byte) : isZero v = true ↔ v = 0#8 := by simp [isZero]

/-! ### 16-bit -/

theorem sum16_eq (x y : Word) : sum16 x y = x + y := by
  apply BitVec.eq_of_toNat_eq
  simp [sum16]

theorem diff16_eq (x y : Word) : diff16 x y = x - y := by
  apply BitVec.eq_of_toNat_eq
  have := x.isLt; have := y.isLt
  simp only [diff16, BitVec.toNat_ofInt, BitVec.toNat_sub]
  omega

/-- `x & 0x0F00` is the third nibble of `x`, in its place. -/
theorem toNat_and_0F00 (x : Word) : (x &&& 0x0F00#16).toNat = 256 * (x.toNat / 256 % 16) := by
  have h : ∀ n : Nat, n &&& 2 ^ 8 * (2 ^ 4 - 1) = 2 ^ 8 * (n / 2 ^ 8 % 2 ^ 4) := by
    intro n
    apply Nat.eq_of_testBit_eq
    intro i
    simp only [Nat.testBit_and, Nat.testBit_two_pow_mul, Nat.testBit_mod_two_pow, Nat.testBit_div_two_pow,
      Nat.testBit_two_pow_sub_one]
    by_cases h8 : 8 ≤ i
    · simp [h8, Nat.sub_add_cancel h8, Bool.and_comm]
    · simp [h8]
  simpa using h x.toNat

/-- The equivalent form of R125: the nibbles in bits 11 to 8 sum to more than 15. -/
theorem half16_eq (x y : Word) :
    half16 x y = decide (x.toNat / 256 % 16 + y.toNat / 256 % 16 > 15) := by
  simp only [half16, toNat_and_0F00, decide_eq_decide]
  omega

theorem sext16_toNat (e : Byte) :
    (sext16 e).toNat = if e.toNat < 128 then e.toNat else e.toNat + 65280 := by
  simp only [sext16, BitVec.toNat_signExtend, BitVec.toNat_setWidth, BitVec.msb_eq_decide]
  have := e.isLt
  split <;> split <;> simp_all <;> omega

/-! ### Halves and pairs -/

theorem toNat_joinBytes (hi lo : Byte) : (joinBytes hi lo).toNat = 256 * hi.toNat + lo.toNat := by
  rw [joinBytes, toNat_append_add]
  omega

theorem toNat_highByte (v : Word) : (highByte v).toNat = v.toNat / 256 := by
  have := v.isLt
  simp [highByte, Nat.shiftRight_eq_div_pow]
  omega

theorem toNat_lowByte (v : Word) : (lowByte v).toNat = v.toNat % 256 := by
  simp [lowByte]

@[simp] theorem highByte_joinBytes (hi lo : Byte) : highByte (joinBytes hi lo) = hi := by
  apply BitVec.eq_of_toNat_eq
  rw [toNat_highByte, toNat_joinBytes]
  omega

@[simp] theorem lowByte_joinBytes (hi lo : Byte) : lowByte (joinBytes hi lo) = lo := by
  apply BitVec.eq_of_toNat_eq
  rw [toNat_lowByte, toNat_joinBytes]
  omega

@[simp] theorem joinBytes_highByte_lowByte (v : Word) : joinBytes (highByte v) (lowByte v) = v := by
  apply BitVec.eq_of_toNat_eq
  rw [toNat_joinBytes, toNat_highByte, toNat_lowByte]
  omega

@[simp] theorem State.readR16_writeR16_same (s : State) (rr : R16) (v : Word) : (s.writeR16 rr v).readR16 rr = v := by
  cases rr <;> simp [State.readR16, State.writeR16]

/-! ### The byte view of F -/

@[simp] theorem Flags.ofByte_toByte (f : Flags) : Flags.ofByte f.toByte = f := by
  rcases f with ⟨_ | _, _ | _, _ | _, _ | _⟩ <;> decide

end Sys2Proof.Machine
end

