-- ==== Sys2Proof/Laws/Encoding.lean ====
section
/-! SUPPORT. Packing and reading the fields of a command word (R51), the selector codes both ways (R54, R55), and the
identifiers of the views both ways (R30). -/

namespace Sys2Proof

theorem toNat_pack (op : BitVec 5) (sel : BitVec 3) (imm : Word) :
    (pack op sel imm).toNat = op.toNat * 2 ^ 19 + sel.toNat * 2 ^ 16 + imm.toNat := by
  simp only [pack, toNat_append_add]
  omega

theorem toNat_opField (w : CommandWord) : (opField w).toNat = w.toNat / 2 ^ 19 := by
  have := w.isLt
  simp [opField, Nat.shiftRight_eq_div_pow]
  omega

theorem toNat_selField (w : CommandWord) : (selField w).toNat = w.toNat / 2 ^ 16 % 8 := by
  simp [selField, Nat.shiftRight_eq_div_pow]

theorem toNat_immField (w : CommandWord) : (immField w).toNat = w.toNat % 2 ^ 16 := by
  simp [immField]

@[simp] theorem opField_pack (op : BitVec 5) (sel : BitVec 3) (imm : Word) : opField (pack op sel imm) = op := by
  apply BitVec.eq_of_toNat_eq
  have := sel.isLt; have := imm.isLt
  rw [toNat_opField, toNat_pack]
  omega

@[simp] theorem selField_pack (op : BitVec 5) (sel : BitVec 3) (imm : Word) : selField (pack op sel imm) = sel := by
  apply BitVec.eq_of_toNat_eq
  have := sel.isLt; have := imm.isLt
  rw [toNat_selField, toNat_pack]
  omega

@[simp] theorem immField_pack (op : BitVec 5) (sel : BitVec 3) (imm : Word) : immField (pack op sel imm) = imm := by
  apply BitVec.eq_of_toNat_eq
  have := imm.isLt
  rw [toNat_immField, toNat_pack]
  omega

/-- A word is its three fields: no bit of it stands outside them. -/
theorem pack_fields (w : CommandWord) : pack (opField w) (selField w) (immField w) = w := by
  apply BitVec.eq_of_toNat_eq
  rw [toNat_pack, toNat_opField, toNat_selField, toNat_immField]
  omega

/-- An 8-bit literal put into `imm` is read back (R56, R58). -/
@[simp] theorem immByte_pack (op : BitVec 5) (sel : BitVec 3) (v : Byte) :
    immByte (pack op sel (v.setWidth 16)) = some v := by
  have := v.isLt
  have hi : (v.setWidth 16).extractLsb' 8 8 = 0#8 := by
    apply BitVec.eq_of_toNat_eq
    simp [Nat.shiftRight_eq_div_pow]
    omega
  have lo : (v.setWidth 16).extractLsb' 0 8 = v := by
    apply BitVec.eq_of_toNat_eq
    simp
    omega
  simp [immByte, hi, lo]

/-- An 8-bit literal that is read is all of `imm`. -/
theorem immByte_eq_some {w : CommandWord} {v : Byte} (h : immByte w = some v) : immField w = v.setWidth 16 := by
  unfold immByte at h
  split at h
  · rename_i hi
    cases h
    apply BitVec.eq_of_toNat_eq
    have := congrArg BitVec.toNat hi
    have := (immField w).isLt
    simp [Nat.shiftRight_eq_div_pow] at *
    omega
  · cases h

@[simp] theorem R8.ofCode_code (r : R8) : R8.ofCode r.code = some r := by cases r <;> rfl

@[simp] theorem R16.ofCode_code (rr : R16) : R16.ofCode rr.code = some rr := by cases rr <;> rfl

theorem R8.code_of_ofCode {c : BitVec 3} {r : R8} (h : R8.ofCode c = some r) : r.code = c := by
  unfold R8.ofCode at h
  split at h <;> cases h <;> rfl

theorem R16.code_of_ofCode {c : BitVec 3} {rr : R16} (h : R16.ofCode c = some rr) : rr.code = c := by
  unfold R16.ofCode at h
  split at h <;> cases h <;> rfl

@[simp] theorem View.ofId_id (v : View) : View.ofId v.id = some v := by cases v <;> rfl

theorem View.id_of_ofId {i : ViewId} {v : View} (h : View.ofId i = some v) : v.id = i := by
  unfold View.ofId at h
  split at h <;> cases h <;> rfl

end Sys2Proof
end

