-- ==== Sys2Proof/Laws/State.lean ====
section
/-! SUPPORT. What each update of the state leaves in each field, and reads after writes of the register file, so that
no proof unfolds an update. Everything here is true by the definitions of Machine/Ops.lean. -/

namespace Sys2Proof.Machine

/-! ### Writing F -/

@[simp] theorem State.setFlags_a (s : State) (x : Flags) : (s.setFlags x).a = s.a := rfl
@[simp] theorem State.setFlags_b (s : State) (x : Flags) : (s.setFlags x).b = s.b := rfl
@[simp] theorem State.setFlags_c (s : State) (x : Flags) : (s.setFlags x).c = s.c := rfl
@[simp] theorem State.setFlags_d (s : State) (x : Flags) : (s.setFlags x).d = s.d := rfl
@[simp] theorem State.setFlags_e (s : State) (x : Flags) : (s.setFlags x).e = s.e := rfl
@[simp] theorem State.setFlags_h (s : State) (x : Flags) : (s.setFlags x).h = s.h := rfl
@[simp] theorem State.setFlags_l (s : State) (x : Flags) : (s.setFlags x).l = s.l := rfl
@[simp] theorem State.setFlags_f (s : State) (x : Flags) : (s.setFlags x).f = x := rfl
@[simp] theorem State.setFlags_sp (s : State) (x : Flags) : (s.setFlags x).sp = s.sp := rfl
@[simp] theorem State.setFlags_pc (s : State) (x : Flags) : (s.setFlags x).pc = s.pc := rfl
@[simp] theorem State.setFlags_pending (s : State) (x : Flags) : (s.setFlags x).pending = s.pending := rfl

/-! ### The request stream and reset -/

@[simp] theorem State.setPending_a (s : State) (x : List Request) : (s.setPending x).a = s.a := rfl
@[simp] theorem State.setPending_b (s : State) (x : List Request) : (s.setPending x).b = s.b := rfl
@[simp] theorem State.setPending_c (s : State) (x : List Request) : (s.setPending x).c = s.c := rfl
@[simp] theorem State.setPending_d (s : State) (x : List Request) : (s.setPending x).d = s.d := rfl
@[simp] theorem State.setPending_e (s : State) (x : List Request) : (s.setPending x).e = s.e := rfl
@[simp] theorem State.setPending_h (s : State) (x : List Request) : (s.setPending x).h = s.h := rfl
@[simp] theorem State.setPending_l (s : State) (x : List Request) : (s.setPending x).l = s.l := rfl
@[simp] theorem State.setPending_f (s : State) (x : List Request) : (s.setPending x).f = s.f := rfl
@[simp] theorem State.setPending_sp (s : State) (x : List Request) : (s.setPending x).sp = s.sp := rfl
@[simp] theorem State.setPending_pc (s : State) (x : List Request) : (s.setPending x).pc = s.pc := rfl
@[simp] theorem State.setPending_pending (s : State) (x : List Request) : (s.setPending x).pending = x := rfl

@[simp] theorem State.resetRegisters_a (s : State) : s.resetRegisters.a = 0#8 := rfl
@[simp] theorem State.resetRegisters_b (s : State) : s.resetRegisters.b = 0#8 := rfl
@[simp] theorem State.resetRegisters_c (s : State) : s.resetRegisters.c = 0#8 := rfl
@[simp] theorem State.resetRegisters_d (s : State) : s.resetRegisters.d = 0#8 := rfl
@[simp] theorem State.resetRegisters_e (s : State) : s.resetRegisters.e = 0#8 := rfl
@[simp] theorem State.resetRegisters_h (s : State) : s.resetRegisters.h = 0#8 := rfl
@[simp] theorem State.resetRegisters_l (s : State) : s.resetRegisters.l = 0#8 := rfl
@[simp] theorem State.resetRegisters_f (s : State) : s.resetRegisters.f = ⟨false, false, false, false⟩ := rfl
@[simp] theorem State.resetRegisters_sp (s : State) : s.resetRegisters.sp = 0#16 := rfl
@[simp] theorem State.resetRegisters_pc (s : State) : s.resetRegisters.pc = 0#16 := rfl
@[simp] theorem State.resetRegisters_pending (s : State) : s.resetRegisters.pending = s.pending := rfl

@[simp] theorem State.present_pending (s : State) (rs : List Request) : (s.present rs).pending = s.pending ++ rs := rfl

theorem State.setPending_self (s : State) : s.setPending s.pending = s := rfl

/-! ### Writing an 8-bit register (R18) -/

@[simp] theorem State.writeR8_f (s : State) (r : R8) (v : Byte) : (s.writeR8 r v).f = s.f := by cases r <;> rfl
@[simp] theorem State.writeR8_sp (s : State) (r : R8) (v : Byte) : (s.writeR8 r v).sp = s.sp := by cases r <;> rfl
@[simp] theorem State.writeR8_pc (s : State) (r : R8) (v : Byte) : (s.writeR8 r v).pc = s.pc := by cases r <;> rfl
@[simp] theorem State.writeR8_pending (s : State) (r : R8) (v : Byte) : (s.writeR8 r v).pending = s.pending := by cases r <;> rfl

@[simp] theorem State.readR8_writeR8 (s : State) (r r' : R8) (v : Byte) :
    (s.writeR8 r v).readR8 r' = if r' = r then v else s.readR8 r' := by cases r <;> cases r' <;> rfl

@[simp] theorem State.readR8_setFlags (s : State) (x : Flags) (r : R8) : (s.setFlags x).readR8 r = s.readR8 r := by cases r <;> rfl

@[simp] theorem State.readR8_setPending (s : State) (x : List Request) (r : R8) : (s.setPending x).readR8 r = s.readR8 r := by
  cases r <;> rfl

@[simp] theorem State.writeR8_a_a (s : State) (v : Byte) : (s.writeR8 .a v).a = v := rfl
@[simp] theorem State.writeR8_a_b (s : State) (v : Byte) : (s.writeR8 .a v).b = s.b := rfl
@[simp] theorem State.writeR8_a_c (s : State) (v : Byte) : (s.writeR8 .a v).c = s.c := rfl
@[simp] theorem State.writeR8_a_d (s : State) (v : Byte) : (s.writeR8 .a v).d = s.d := rfl
@[simp] theorem State.writeR8_a_e (s : State) (v : Byte) : (s.writeR8 .a v).e = s.e := rfl
@[simp] theorem State.writeR8_a_h (s : State) (v : Byte) : (s.writeR8 .a v).h = s.h := rfl
@[simp] theorem State.writeR8_a_l (s : State) (v : Byte) : (s.writeR8 .a v).l = s.l := rfl
@[simp] theorem State.writeR8_b_a (s : State) (v : Byte) : (s.writeR8 .b v).a = s.a := rfl
@[simp] theorem State.writeR8_b_b (s : State) (v : Byte) : (s.writeR8 .b v).b = v := rfl
@[simp] theorem State.writeR8_b_c (s : State) (v : Byte) : (s.writeR8 .b v).c = s.c := rfl
@[simp] theorem State.writeR8_b_d (s : State) (v : Byte) : (s.writeR8 .b v).d = s.d := rfl
@[simp] theorem State.writeR8_b_e (s : State) (v : Byte) : (s.writeR8 .b v).e = s.e := rfl
@[simp] theorem State.writeR8_b_h (s : State) (v : Byte) : (s.writeR8 .b v).h = s.h := rfl
@[simp] theorem State.writeR8_b_l (s : State) (v : Byte) : (s.writeR8 .b v).l = s.l := rfl
@[simp] theorem State.writeR8_c_a (s : State) (v : Byte) : (s.writeR8 .c v).a = s.a := rfl
@[simp] theorem State.writeR8_c_b (s : State) (v : Byte) : (s.writeR8 .c v).b = s.b := rfl
@[simp] theorem State.writeR8_c_c (s : State) (v : Byte) : (s.writeR8 .c v).c = v := rfl
@[simp] theorem State.writeR8_c_d (s : State) (v : Byte) : (s.writeR8 .c v).d = s.d := rfl
@[simp] theorem State.writeR8_c_e (s : State) (v : Byte) : (s.writeR8 .c v).e = s.e := rfl
@[simp] theorem State.writeR8_c_h (s : State) (v : Byte) : (s.writeR8 .c v).h = s.h := rfl
@[simp] theorem State.writeR8_c_l (s : State) (v : Byte) : (s.writeR8 .c v).l = s.l := rfl
@[simp] theorem State.writeR8_d_a (s : State) (v : Byte) : (s.writeR8 .d v).a = s.a := rfl
@[simp] theorem State.writeR8_d_b (s : State) (v : Byte) : (s.writeR8 .d v).b = s.b := rfl
@[simp] theorem State.writeR8_d_c (s : State) (v : Byte) : (s.writeR8 .d v).c = s.c := rfl
@[simp] theorem State.writeR8_d_d (s : State) (v : Byte) : (s.writeR8 .d v).d = v := rfl
@[simp] theorem State.writeR8_d_e (s : State) (v : Byte) : (s.writeR8 .d v).e = s.e := rfl
@[simp] theorem State.writeR8_d_h (s : State) (v : Byte) : (s.writeR8 .d v).h = s.h := rfl
@[simp] theorem State.writeR8_d_l (s : State) (v : Byte) : (s.writeR8 .d v).l = s.l := rfl
@[simp] theorem State.writeR8_e_a (s : State) (v : Byte) : (s.writeR8 .e v).a = s.a := rfl
@[simp] theorem State.writeR8_e_b (s : State) (v : Byte) : (s.writeR8 .e v).b = s.b := rfl
@[simp] theorem State.writeR8_e_c (s : State) (v : Byte) : (s.writeR8 .e v).c = s.c := rfl
@[simp] theorem State.writeR8_e_d (s : State) (v : Byte) : (s.writeR8 .e v).d = s.d := rfl
@[simp] theorem State.writeR8_e_e (s : State) (v : Byte) : (s.writeR8 .e v).e = v := rfl
@[simp] theorem State.writeR8_e_h (s : State) (v : Byte) : (s.writeR8 .e v).h = s.h := rfl
@[simp] theorem State.writeR8_e_l (s : State) (v : Byte) : (s.writeR8 .e v).l = s.l := rfl
@[simp] theorem State.writeR8_h_a (s : State) (v : Byte) : (s.writeR8 .h v).a = s.a := rfl
@[simp] theorem State.writeR8_h_b (s : State) (v : Byte) : (s.writeR8 .h v).b = s.b := rfl
@[simp] theorem State.writeR8_h_c (s : State) (v : Byte) : (s.writeR8 .h v).c = s.c := rfl
@[simp] theorem State.writeR8_h_d (s : State) (v : Byte) : (s.writeR8 .h v).d = s.d := rfl
@[simp] theorem State.writeR8_h_e (s : State) (v : Byte) : (s.writeR8 .h v).e = s.e := rfl
@[simp] theorem State.writeR8_h_h (s : State) (v : Byte) : (s.writeR8 .h v).h = v := rfl
@[simp] theorem State.writeR8_h_l (s : State) (v : Byte) : (s.writeR8 .h v).l = s.l := rfl
@[simp] theorem State.writeR8_l_a (s : State) (v : Byte) : (s.writeR8 .l v).a = s.a := rfl
@[simp] theorem State.writeR8_l_b (s : State) (v : Byte) : (s.writeR8 .l v).b = s.b := rfl
@[simp] theorem State.writeR8_l_c (s : State) (v : Byte) : (s.writeR8 .l v).c = s.c := rfl
@[simp] theorem State.writeR8_l_d (s : State) (v : Byte) : (s.writeR8 .l v).d = s.d := rfl
@[simp] theorem State.writeR8_l_e (s : State) (v : Byte) : (s.writeR8 .l v).e = s.e := rfl
@[simp] theorem State.writeR8_l_h (s : State) (v : Byte) : (s.writeR8 .l v).h = s.h := rfl
@[simp] theorem State.writeR8_l_l (s : State) (v : Byte) : (s.writeR8 .l v).l = v := rfl

/-! ### Writing a 16-bit register (R21, R24) -/

@[simp] theorem State.writeR16_a (s : State) (rr : R16) (v : Word) : (s.writeR16 rr v).a = s.a := by cases rr <;> rfl
@[simp] theorem State.writeR16_f (s : State) (rr : R16) (v : Word) : (s.writeR16 rr v).f = s.f := by cases rr <;> rfl
@[simp] theorem State.writeR16_pc (s : State) (rr : R16) (v : Word) : (s.writeR16 rr v).pc = s.pc := by cases rr <;> rfl
@[simp] theorem State.writeR16_pending (s : State) (rr : R16) (v : Word) : (s.writeR16 rr v).pending = s.pending := by cases rr <;> rfl

@[simp] theorem State.writeR16_bc_b (s : State) (v : Word) : (s.writeR16 .bc v).b = highByte v := rfl
@[simp] theorem State.writeR16_bc_c (s : State) (v : Word) : (s.writeR16 .bc v).c = lowByte v := rfl
@[simp] theorem State.writeR16_bc_d (s : State) (v : Word) : (s.writeR16 .bc v).d = s.d := rfl
@[simp] theorem State.writeR16_bc_e (s : State) (v : Word) : (s.writeR16 .bc v).e = s.e := rfl
@[simp] theorem State.writeR16_bc_h (s : State) (v : Word) : (s.writeR16 .bc v).h = s.h := rfl
@[simp] theorem State.writeR16_bc_l (s : State) (v : Word) : (s.writeR16 .bc v).l = s.l := rfl
@[simp] theorem State.writeR16_bc_sp (s : State) (v : Word) : (s.writeR16 .bc v).sp = s.sp := rfl
@[simp] theorem State.writeR16_de_b (s : State) (v : Word) : (s.writeR16 .de v).b = s.b := rfl
@[simp] theorem State.writeR16_de_c (s : State) (v : Word) : (s.writeR16 .de v).c = s.c := rfl
@[simp] theorem State.writeR16_de_d (s : State) (v : Word) : (s.writeR16 .de v).d = highByte v := rfl
@[simp] theorem State.writeR16_de_e (s : State) (v : Word) : (s.writeR16 .de v).e = lowByte v := rfl
@[simp] theorem State.writeR16_de_h (s : State) (v : Word) : (s.writeR16 .de v).h = s.h := rfl
@[simp] theorem State.writeR16_de_l (s : State) (v : Word) : (s.writeR16 .de v).l = s.l := rfl
@[simp] theorem State.writeR16_de_sp (s : State) (v : Word) : (s.writeR16 .de v).sp = s.sp := rfl
@[simp] theorem State.writeR16_hl_b (s : State) (v : Word) : (s.writeR16 .hl v).b = s.b := rfl
@[simp] theorem State.writeR16_hl_c (s : State) (v : Word) : (s.writeR16 .hl v).c = s.c := rfl
@[simp] theorem State.writeR16_hl_d (s : State) (v : Word) : (s.writeR16 .hl v).d = s.d := rfl
@[simp] theorem State.writeR16_hl_e (s : State) (v : Word) : (s.writeR16 .hl v).e = s.e := rfl
@[simp] theorem State.writeR16_hl_h (s : State) (v : Word) : (s.writeR16 .hl v).h = highByte v := rfl
@[simp] theorem State.writeR16_hl_l (s : State) (v : Word) : (s.writeR16 .hl v).l = lowByte v := rfl
@[simp] theorem State.writeR16_hl_sp (s : State) (v : Word) : (s.writeR16 .hl v).sp = s.sp := rfl
@[simp] theorem State.writeR16_sp_b (s : State) (v : Word) : (s.writeR16 .sp v).b = s.b := rfl
@[simp] theorem State.writeR16_sp_c (s : State) (v : Word) : (s.writeR16 .sp v).c = s.c := rfl
@[simp] theorem State.writeR16_sp_d (s : State) (v : Word) : (s.writeR16 .sp v).d = s.d := rfl
@[simp] theorem State.writeR16_sp_e (s : State) (v : Word) : (s.writeR16 .sp v).e = s.e := rfl
@[simp] theorem State.writeR16_sp_h (s : State) (v : Word) : (s.writeR16 .sp v).h = s.h := rfl
@[simp] theorem State.writeR16_sp_l (s : State) (v : Word) : (s.writeR16 .sp v).l = s.l := rfl
@[simp] theorem State.writeR16_sp_sp (s : State) (v : Word) : (s.writeR16 .sp v).sp = v := rfl

/-! ### Writing the accumulator with its flags (R100) -/

@[simp] theorem State.writeAccumulator_a (s : State) (v : Byte) (x : Flags) : (s.writeAccumulator v x).a = v := rfl
@[simp] theorem State.writeAccumulator_b (s : State) (v : Byte) (x : Flags) : (s.writeAccumulator v x).b = s.b := rfl
@[simp] theorem State.writeAccumulator_c (s : State) (v : Byte) (x : Flags) : (s.writeAccumulator v x).c = s.c := rfl
@[simp] theorem State.writeAccumulator_d (s : State) (v : Byte) (x : Flags) : (s.writeAccumulator v x).d = s.d := rfl
@[simp] theorem State.writeAccumulator_e (s : State) (v : Byte) (x : Flags) : (s.writeAccumulator v x).e = s.e := rfl
@[simp] theorem State.writeAccumulator_h (s : State) (v : Byte) (x : Flags) : (s.writeAccumulator v x).h = s.h := rfl
@[simp] theorem State.writeAccumulator_l (s : State) (v : Byte) (x : Flags) : (s.writeAccumulator v x).l = s.l := rfl
@[simp] theorem State.writeAccumulator_f (s : State) (v : Byte) (x : Flags) : (s.writeAccumulator v x).f = x := rfl
@[simp] theorem State.writeAccumulator_sp (s : State) (v : Byte) (x : Flags) : (s.writeAccumulator v x).sp = s.sp := rfl
@[simp] theorem State.writeAccumulator_pc (s : State) (v : Byte) (x : Flags) : (s.writeAccumulator v x).pc = s.pc := rfl
@[simp] theorem State.writeAccumulator_pending (s : State) (v : Byte) (x : Flags) : (s.writeAccumulator v x).pending = s.pending := rfl

end Sys2Proof.Machine
end

