-- ==== Sys2Proof/Laws/Exec.lean ====
section
/-! SUPPORT. What each operation gives, one equation per constructor of `Instr`, over the named updates of the register
file; and what a step does with each kind of next request. Proofs cite these and unfold no meaning. -/

namespace Sys2Proof.Machine

theorem exec_ld (r : R8) (v : Byte) (s : State) : exec (.ld r v) s = .next (s.writeR8 r v) := rfl

theorem exec_ldi (r : R8) (v : Byte) (s : State) :
    exec (.ldi r v) s = .next ((s.writeR8 r v).writeR16 .hl ((s.writeR8 r v).readR16 .hl + 1#16)) := by
  rw [← sum16_eq]; rfl

theorem exec_ldd (r : R8) (v : Byte) (s : State) :
    exec (.ldd r v) s = .next ((s.writeR8 r v).writeR16 .hl ((s.writeR8 r v).readR16 .hl - 1#16)) := by
  rw [← diff16_eq]; rfl

theorem exec_ldU16 (rr : R16) (w : Word) (s : State) : exec (.ldU16 rr w) s = .next (s.writeR16 rr w) := rfl

theorem exec_add (v : Byte) (s : State) :
    exec (.add v) s = .next (s.writeAccumulator (s.a + v) (addFlags s.a v 0)) := by
  rw [← sum8_zero]; rfl

theorem exec_adc (v : Byte) (s : State) :
    exec (.adc v) s = .next (s.writeAccumulator (sum8 s.a v s.f.c.toNat) (addFlags s.a v s.f.c.toNat)) := rfl

theorem exec_sub (v : Byte) (s : State) :
    exec (.sub v) s = .next (s.writeAccumulator (s.a - v) (subFlags s.a v)) := by
  rw [← diff8_eq]; rfl

theorem exec_sbc (v : Byte) (s : State) :
    exec (.sbc v) s = .next (s.writeAccumulator (sum8 s.a v s.f.c.toNat) (sbcFlags s.a v s.f.c.toNat)) := rfl

theorem exec_and (v : Byte) (s : State) :
    exec (.and v) s = .next (s.writeAccumulator (s.a &&& v) (logicFlags (s.a &&& v) true)) := rfl

theorem exec_xor (v : Byte) (s : State) :
    exec (.xor v) s = .next (s.writeAccumulator (s.a ^^^ v) (logicFlags (s.a ^^^ v) false)) := rfl

theorem exec_or (v : Byte) (s : State) :
    exec (.or v) s = .next (s.writeAccumulator (s.a ||| v) (logicFlags (s.a ||| v) false)) := rfl

theorem exec_cp (v : Byte) (s : State) : exec (.cp v) s = .next (s.setFlags (subFlags s.a v)) := rfl

theorem exec_inc (r : R8) (s : State) :
    exec (.inc r) s = .next ((s.writeR8 r (s.readR8 r + 1#8)).setFlags (incFlags (s.readR8 r) s.f)) := by
  rw [← sum8_zero]; rfl

theorem exec_dec (r : R8) (s : State) :
    exec (.dec r) s = .next ((s.writeR8 r (s.readR8 r - 1#8)).setFlags (decFlags (s.readR8 r) s.f)) := by
  rw [← diff8_eq]; rfl

theorem exec_daa (s : State) :
    exec .daa s = .next ((s.writeR8 .a (daaResult s.a s.f)).setFlags (daaFlags s.a s.f)) := rfl

theorem exec_cpl (s : State) :
    exec .cpl s = .next ((s.writeR8 .a (s.a ^^^ 0xFF#8)).setFlags (cplFlags s.f)) := rfl

theorem exec_addHl (rr : R16) (s : State) :
    exec (.addHl rr) s = .next ((s.writeR16 .hl (s.readR16 .hl + s.readR16 rr)).setFlags
      (addHlFlags (s.readR16 .hl) (s.readR16 rr) s.f)) := by
  rw [← sum16_eq]; rfl

theorem exec_incU16 (rr : R16) (s : State) :
    exec (.incU16 rr) s = .next (s.writeR16 rr (s.readR16 rr + 1#16)) := by
  rw [← sum16_eq]; rfl

theorem exec_decU16 (rr : R16) (s : State) :
    exec (.decU16 rr) s = .next (s.writeR16 rr (s.readR16 rr - 1#16)) := by
  rw [← diff16_eq]; rfl

theorem exec_addSp (e : Byte) (s : State) :
    exec (.addSp e) s = .next ((s.writeR16 .sp (s.sp + sext16 e)).setFlags (spFlags s.sp (sext16 e))) := by
  rw [← sum16_eq]; rfl

theorem exec_ldHl (e : Byte) (s : State) :
    exec (.ldHl e) s = .next ((s.writeR16 .hl (s.sp + sext16 e)).setFlags (spFlags s.sp (sext16 e))) := by
  rw [← sum16_eq]; rfl

/-! ### A step, by the next request -/

theorem step_idle {s : State} (h : s.pending = []) : step s = .next s := by simp [step, runNext, h]

theorem step_cons {s : State} {r : Request} {rest : List Request} (h : s.pending = r :: rest) :
    step s = runRequest r (s.setPending rest) := by simp [step, runNext, h]

theorem step_setPending_cons (s : State) (r : Request) (rest : List Request) :
    step (s.setPending (r :: rest)) = runRequest r (s.setPending rest) := rfl

theorem runRequest_command_ok {w : CommandWord} {i : Instr} (h : decode w = .ok i) (s : State) :
    runRequest (.command w) s = exec i s := by simp [runRequest, runCommand, h]

theorem runRequest_command_error {w : CommandWord} {why : IllegalCommand} (h : decode w = .error why) (s : State) :
    runRequest (.command w) s = .refused (.illegalCommand why) := by simp [runRequest, runCommand, h]

theorem runRequest_regWrite_ok {id : ViewId} {data : Word} {v : View} (h : decodeRegWrite id data = .ok v) (s : State) :
    runRequest (.regWrite id data) s = .next (s.writeView v data) := by simp [runRequest, runRegWrite, h]

theorem runRequest_regWrite_error {id : ViewId} {data : Word} {why : IllegalRegWrite}
    (h : decodeRegWrite id data = .error why) (s : State) :
    runRequest (.regWrite id data) s = .refused (.illegalRegWrite why) := by simp [runRequest, runRegWrite, h]

theorem runRequest_reset (s : State) : runRequest .reset s = .next s.resetRegisters := rfl

/-! ### Runs -/

/-- A run of `k + 1` steps is one step and then a run of `k`. -/
theorem run_succ (M : Host.Core) (k : Nat) (s : M.State) :
    M.run (k + 1) s = match M.step s with
      | .next s' => M.run k s'
      | .fault r => .fault r
      | .refused r => .refused r := rfl

theorem run_succ_of_next {s t : State} (h : step s = .next t) (k : Nat) :
    Host.Core.run Sys2Proof.core (k + 1) s = Host.Core.run Sys2Proof.core k t := by
  have e := run_succ Sys2Proof.core k s
  rw [e, show Sys2Proof.core.step s = .next t from h]

theorem run_succ_of_refused {s : State} {why : Refusal} (h : step s = .refused why) (k : Nat) :
    Host.Core.run Sys2Proof.core (k + 1) s = .refused why := by
  have e := run_succ Sys2Proof.core k s
  rw [e, show Sys2Proof.core.step s = .refused why from h]

end Sys2Proof.Machine
end

