-- ==== Sys2Proof/Laws/PerInstr.lean ====
section
/-! SUPPORT. Lemmas made per instruction. Family `EncodedFields`: the word of every instruction holds, in the fields of
R51, its operation number (R53), its selector (R54, R55) and its literal, with the unused bits zero (R59). -/

namespace Sys2Proof.Laws

/-- The operation number of an instruction (R53). -/
def opNumber : Instr → BitVec 5
  | .ld _ _ => 0x00#5
  | .ldi _ _ => 0x01#5
  | .ldd _ _ => 0x02#5
  | .ldU16 _ _ => 0x03#5
  | .add _ => 0x04#5
  | .adc _ => 0x05#5
  | .sub _ => 0x06#5
  | .sbc _ => 0x07#5
  | .and _ => 0x08#5
  | .xor _ => 0x09#5
  | .or _ => 0x0A#5
  | .cp _ => 0x0B#5
  | .inc _ => 0x0C#5
  | .dec _ => 0x0D#5
  | .daa => 0x0E#5
  | .cpl => 0x0F#5
  | .addHl _ => 0x10#5
  | .incU16 _ => 0x11#5
  | .decU16 _ => 0x12#5
  | .addSp _ => 0x13#5
  | .ldHl _ => 0x14#5

/-- The selector field of an instruction: its register's code, or zero where it selects none (R52). -/
def selector : Instr → BitVec 3
  | .ld r _ | .ldi r _ | .ldd r _ | .inc r | .dec r => r.code
  | .ldU16 rr _ | .addHl rr | .incU16 rr | .decU16 rr => rr.code
  | .add _ | .adc _ | .sub _ | .sbc _ | .and _ | .xor _ | .or _ | .cp _ => 0#3
  | .daa | .cpl | .addSp _ | .ldHl _ => 0#3

/-- The literal field of an instruction: its literal, zero above an 8-bit one, or zero where it takes none (R52). -/
def literal : Instr → Word
  | .ld _ v | .ldi _ v | .ldd _ v => v.setWidth 16
  | .add v | .adc v | .sub v | .sbc v | .and v | .xor v | .or v | .cp v | .addSp v | .ldHl v => v.setWidth 16
  | .ldU16 _ w => w
  | .inc _ | .dec _ | .daa | .cpl | .addHl _ | .incU16 _ | .decU16 _ => 0#16

/-- The three fields of the word of `i`. -/
def EncodedFields.Statement (i : Instr) : Prop :=
  opField (encode i) = opNumber i ∧ selField (encode i) = selector i ∧ immField (encode i) = literal i

theorem EncodedFields.of_pack {i : Instr} (h : encode i = pack (opNumber i) (selector i) (literal i)) :
    EncodedFields.Statement i := by
  simp [EncodedFields.Statement, h]

theorem EncodedFields.ld (r : R8) (v : Byte) : EncodedFields.Statement (.ld r v) := EncodedFields.of_pack rfl
theorem EncodedFields.ldi (r : R8) (v : Byte) : EncodedFields.Statement (.ldi r v) := EncodedFields.of_pack rfl
theorem EncodedFields.ldd (r : R8) (v : Byte) : EncodedFields.Statement (.ldd r v) := EncodedFields.of_pack rfl
theorem EncodedFields.ldU16 (rr : R16) (w : Word) : EncodedFields.Statement (.ldU16 rr w) := EncodedFields.of_pack rfl
theorem EncodedFields.add (v : Byte) : EncodedFields.Statement (.add v) := EncodedFields.of_pack rfl
theorem EncodedFields.adc (v : Byte) : EncodedFields.Statement (.adc v) := EncodedFields.of_pack rfl
theorem EncodedFields.sub (v : Byte) : EncodedFields.Statement (.sub v) := EncodedFields.of_pack rfl
theorem EncodedFields.sbc (v : Byte) : EncodedFields.Statement (.sbc v) := EncodedFields.of_pack rfl
theorem EncodedFields.and (v : Byte) : EncodedFields.Statement (.and v) := EncodedFields.of_pack rfl
theorem EncodedFields.xor (v : Byte) : EncodedFields.Statement (.xor v) := EncodedFields.of_pack rfl
theorem EncodedFields.or (v : Byte) : EncodedFields.Statement (.or v) := EncodedFields.of_pack rfl
theorem EncodedFields.cp (v : Byte) : EncodedFields.Statement (.cp v) := EncodedFields.of_pack rfl
theorem EncodedFields.inc (r : R8) : EncodedFields.Statement (.inc r) := EncodedFields.of_pack rfl
theorem EncodedFields.dec (r : R8) : EncodedFields.Statement (.dec r) := EncodedFields.of_pack rfl
theorem EncodedFields.daa : EncodedFields.Statement .daa := EncodedFields.of_pack rfl
theorem EncodedFields.cpl : EncodedFields.Statement .cpl := EncodedFields.of_pack rfl
theorem EncodedFields.addHl (rr : R16) : EncodedFields.Statement (.addHl rr) := EncodedFields.of_pack rfl
theorem EncodedFields.incU16 (rr : R16) : EncodedFields.Statement (.incU16 rr) := EncodedFields.of_pack rfl
theorem EncodedFields.decU16 (rr : R16) : EncodedFields.Statement (.decU16 rr) := EncodedFields.of_pack rfl
theorem EncodedFields.addSp (e : Byte) : EncodedFields.Statement (.addSp e) := EncodedFields.of_pack rfl
theorem EncodedFields.ldHl (e : Byte) : EncodedFields.Statement (.ldHl e) := EncodedFields.of_pack rfl

end Sys2Proof.Laws
end

