-- ==== Sys2Proof/Tests/Slice0.lean ====
section
/-! SUPPORT. Tests and witnesses. Every expected value is the spec's: the id in a test's comment is that of the vector in
95_test_vectors.md (or the rule whose example it is), never the model's own answer. -/

namespace Sys2Proof.Tests

open Sys2Proof.Machine

/-! ### Well-formedness: a request that each check refuses, beside one that it accepts -/

/-- ILL-1: `ld` with the reserved `r8` code. -/
theorem test_illegal_reserved_r8 : (Request.command 0x060019#24).wellFormed = false := by decide
/-- ILL-3: `add` with `sel` = 1. -/
theorem test_illegal_sel_set : (Request.command 0x210028#24).wellFormed = false := by decide
/-- ILL-6: `add_hl` with `sel[2]` = 1. -/
theorem test_illegal_sel2_set : (Request.command 0x840000#24).wellFormed = false := by decide
/-- ILL-4: `add` with `imm[15:8]` = 0x01. -/
theorem test_illegal_imm_high_set : (Request.command 0x200128#24).wellFormed = false := by decide
/-- ILL-9: `daa` with `imm` = 1. -/
theorem test_illegal_imm_set : (Request.command 0x700001#24).wellFormed = false := by decide
/-- ILL-12: operation number 0x15. -/
theorem test_illegal_op : (Request.command 0xA80000#24).wellFormed = false := by decide
/-- RF-10: identifier 14. -/
theorem test_illegal_view : (Request.regWrite 14#4 0x0000#16).wellFormed = false := by decide
/-- RF-10: B with data 0x0100. -/
theorem test_illegal_wide_data : (Request.regWrite 0#4 0x0100#16).wellFormed = false := by decide
/-- The legal neighbours (30_encoding.md section 7). -/
theorem test_legal_neighbours : [Request.command 0x070019#24, .command 0x200028#24, .command 0x830000#24,
    .command 0x700000#24, .command 0xA00000#24, .regWrite 13#4 0xFFFF#16, .regWrite 7#4 0x00FF#16, .reset].all
    Request.wellFormed = true := by decide

/-- The opcode map has the 21 operations of R2. -/
theorem test_opcode_count : opcodeTable.length = Config.operationCount := by decide
/-- No two rows of the opcode map can select one word: on the bits that both masks cover, their patterns differ. -/
theorem test_opcode_rows_disjoint : opcodeTable.Pairwise fun p q =>
    p.pattern &&& (p.format.mask &&& q.format.mask) ≠ q.pattern &&& (p.format.mask &&& q.format.mask) := by decide

/-! ### Decoding: one word of every constructor, its fields written out from R51 to R58 -/

/-- `op` 00000, `sel` 111 (A), `imm` 0x0019 (DEC-1). -/
theorem test_decode_ld : decode 0b00000_111_0000000000011001#24 = .ok (.ld .a 0x19#8) := by decide
/-- `op` 00001, `sel` 111 (A), `imm` 0x005A (DEC-3). -/
theorem test_decode_ldi : decode 0b00001_111_0000000001011010#24 = .ok (.ldi .a 0x5A#8) := by decide
/-- `op` 00010, `sel` 000 (B), `imm` 0x0077 (DEC-4). -/
theorem test_decode_ldd : decode 0b00010_000_0000000001110111#24 = .ok (.ldd .b 0x77#8) := by decide
/-- `op` 00011, `sel` 011 (SP), `imm` 0xFFF8 (DEC-6). -/
theorem test_decode_ldU16 : decode 0b00011_011_1111111111111000#24 = .ok (.ldU16 .sp 0xFFF8#16) := by decide
/-- `op` 00100, `imm` 0x0028 (DEC-7). -/
theorem test_decode_add : decode 0b00100_000_0000000000101000#24 = .ok (.add 0x28#8) := by decide
/-- `op` 00101, `imm` 0x0012 (DEC-8). -/
theorem test_decode_adc : decode 0b00101_000_0000000000010010#24 = .ok (.adc 0x12#8) := by decide
/-- `op` 00110, `imm` 0x0013 (DEC-9). -/
theorem test_decode_sub : decode 0b00110_000_0000000000010011#24 = .ok (.sub 0x13#8) := by decide
/-- `op` 00111, `imm` 0x0001 (DEC-10). -/
theorem test_decode_sbc : decode 0b00111_000_0000000000000001#24 = .ok (.sbc 0x01#8) := by decide
/-- `op` 01000, `imm` 0x000F (DEC-11). -/
theorem test_decode_and : decode 0b01000_000_0000000000001111#24 = .ok (.and 0x0F#8) := by decide
/-- `op` 01001, `imm` 0x00FF (DEC-12). -/
theorem test_decode_xor : decode 0b01001_000_0000000011111111#24 = .ok (.xor 0xFF#8) := by decide
/-- `op` 01010, `imm` 0x0000 (DEC-13). -/
theorem test_decode_or : decode 0b01010_000_0000000000000000#24 = .ok (.or 0x00#8) := by decide
/-- `op` 01011, `imm` 0x0002 (DEC-14). -/
theorem test_decode_cp : decode 0b01011_000_0000000000000010#24 = .ok (.cp 0x02#8) := by decide
/-- `op` 01100, `sel` 101 (L) (DEC-15). -/
theorem test_decode_inc : decode 0b01100_101_0000000000000000#24 = .ok (.inc .l) := by decide
/-- `op` 01101, `sel` 111 (A) (DEC-16). -/
theorem test_decode_dec : decode 0b01101_111_0000000000000000#24 = .ok (.dec .a) := by decide
/-- `op` 01110 (DEC-17). -/
theorem test_decode_daa : decode 0b01110_000_0000000000000000#24 = .ok .daa := by decide
/-- `op` 01111 (DEC-18). -/
theorem test_decode_cpl : decode 0b01111_000_0000000000000000#24 = .ok .cpl := by decide
/-- `op` 10000, `sel` 011 (SP) (DEC-20). -/
theorem test_decode_addHl : decode 0b10000_011_0000000000000000#24 = .ok (.addHl .sp) := by decide
/-- `op` 10001, `sel` 011 (SP) (DEC-21). -/
theorem test_decode_incU16 : decode 0b10001_011_0000000000000000#24 = .ok (.incU16 .sp) := by decide
/-- `op` 10010, `sel` 010 (HL) (DEC-22). -/
theorem test_decode_decU16 : decode 0b10010_010_0000000000000000#24 = .ok (.decU16 .hl) := by decide
/-- `op` 10011, `imm` 0x00F8 (DEC-23). -/
theorem test_decode_addSp : decode 0b10011_000_0000000011111000#24 = .ok (.addSp 0xF8#8) := by decide
/-- `op` 10100, `imm` 0x0080 (DEC-25). -/
theorem test_decode_ldHl : decode 0b10100_000_0000000010000000#24 = .ok (.ldHl 0x80#8) := by decide
/-- ILL-2, ILL-5, ILL-7, ILL-8, ILL-10, ILL-11, ILL-13: rejected by name. -/
theorem test_decode_illegal :
    decode 0x660000#24 = .error .reservedRegister ∧ decode 0x070119#24 = .error .unusedBitSet ∧
    decode 0x1C0000#24 = .error .unusedBitSet ∧ decode 0x800001#24 = .error .unusedBitSet ∧
    decode 0x790000#24 = .error .unusedBitSet ∧ decode 0x980100#24 = .error .unusedBitSet ∧
    decode 0xFFFFFF#24 = .error .reservedOp := by decide
/-- The table word of `add_sp -8`, as the host numbers bits, and a value that is no 24-bit word. -/
theorem test_decode_table_word :
    decodeTableWord 24 0x9800F8 = some (.addSp 0xF8#8) ∧ decodeTableWord 32 0x1000000 = none := by decide

/-! ### One step on a small state -/

/-- A and F as given, the rest as after reset. -/
def withAF (a f : Byte) : State := { State.reset with a := a, f := Flags.ofByte f }

/-- HL and F as given, the rest as after reset. -/
def withHL (hl : Word) (f : Byte) : State := (State.reset.writeR16 .hl hl).setFlags (Flags.ofByte f)

/-- SP and F as given, HL = 0x1234, the rest as after reset. -/
def withSP (sp : Word) (f : Byte) : State := (withHL 0x1234#16 f).writeR16 .sp sp

/-- The state after the command word has been presented and executed. -/
def after (w : CommandWord) (s : State) : Option State := nextState (step (s.present [.command w]))

/-- A and F. -/
def readAF (o : Option State) : Option (Byte × Byte) := o.map fun t => (t.a, t.f.toByte)

/-- An 8-bit register and F. -/
def readRF (r : R8) (o : Option State) : Option (Byte × Byte) := o.map fun t => (t.readR8 r, t.f.toByte)

/-- A 16-bit register and F. -/
def readRRF (rr : R16) (o : Option State) : Option (Word × Byte) := o.map fun t => (t.readR16 rr, t.f.toByte)

/-- LD-1 -/
theorem test_ld_keeps_flags : readAF (after 0x070019#24 (withAF 0x00#8 0xF0#8)) = some (0x19#8, 0xF0#8) := by decide
/-- LD-3 -/
theorem test_ld_h_keeps_l : readRRF .hl (after 0x040000#24 (withHL 0x1234#16 0x50#8)) = some (0x0034#16, 0x50#8) := by decide
/-- LD-8 -/
theorem test_ldi_h_increments_loaded_pair : readRRF .hl (after 0x0C00FF#24 (withHL 0x00FF#16 0x00#8)) = some (0x0000#16, 0x00#8) := by
  decide
/-- LD-9 -/
theorem test_ldi_l_carries : readRRF .hl (after 0x0D00FF#24 (withHL 0x3456#16 0x00#8)) = some (0x3500#16, 0x00#8) := by decide
/-- LD-6, the discrepancy of GBRS §9: `ldd` decrements. -/
theorem test_ldd_decrements : readRRF .hl (after 0x17005A#24 (withHL 0x1200#16 0x00#8)) = some (0x11FF#16, 0x00#8) := by decide
/-- LD-10 -/
theorem test_ldd_l_borrows : readRRF .hl (after 0x150000#24 (withHL 0x3456#16 0x00#8)) = some (0x33FF#16, 0x00#8) := by decide
/-- LD-15 -/
theorem test_ldU16_high_byte_first : readRF .d (after 0x19BEEF#24 State.reset) = some (0xBE#8, 0x00#8) := by decide
/-- LD-13 -/
theorem test_ldU16_sp : readRRF .sp (after 0x1BFFF8#24 State.reset) = some (0xFFF8#16, 0x00#8) := by decide
/-- ADD-5: the carry before is ignored. -/
theorem test_add_ignores_carry : readAF (after 0x2000C6#24 (withAF 0x3A#8 0x10#8)) = some (0x00#8, 0xB0#8) := by decide
/-- ADD-4: c without h. -/
theorem test_add_carry_only : readAF (after 0x200080#24 (withAF 0x80#8 0x00#8)) = some (0x00#8, 0x90#8) := by decide
/-- ADC-4: the carry comes from the second step. -/
theorem test_adc_second_step_carry : readAF (after 0x2800FF#24 (withAF 0x00#8 0x10#8)) = some (0x00#8, 0xB0#8) := by decide
/-- ADC-5: h needs the carry-in. -/
theorem test_adc_half_carry_in : readAF (after 0x280001#24 (withAF 0x0E#8 0x10#8)) = some (0x10#8, 0x20#8) := by decide
/-- SUB-5: c without h; the carry before is ignored. -/
theorem test_sub_borrow_only : readAF (after 0x300040#24 (withAF 0x3E#8 0x10#8)) = some (0xFE#8, 0x50#8) := by decide
/-- SUB-3: h without c. -/
theorem test_sub_half_borrow_only : readAF (after 0x300001#24 (withAF 0x10#8 0x00#8)) = some (0x0F#8, 0x60#8) := by decide
/-- SBC-8: a sum, and equal nibbles with the carry set. -/
theorem test_sbc_adds : readAF (after 0x380005#24 (withAF 0x05#8 0x10#8)) = some (0x0B#8, 0x60#8) := by decide
/-- SBC-4: the sum's carry without a nibble borrow. -/
theorem test_sbc_carry_of_sum : readAF (after 0x380000#24 (withAF 0xFF#8 0x10#8)) = some (0x00#8, 0xD0#8) := by decide
/-- AND-2: h is forced. -/
theorem test_and_forces_half : readAF (after 0x40003F#24 (withAF 0x5A#8 0xD0#8)) = some (0x1A#8, 0x20#8) := by decide
/-- XOR-1: h and c are cleared. -/
theorem test_xor_clears : readAF (after 0x4800FF#24 (withAF 0xFF#8 0xF0#8)) = some (0x00#8, 0x80#8) := by decide
/-- OR-2 -/
theorem test_or_clears : readAF (after 0x50000F#24 (withAF 0x5A#8 0x70#8)) = some (0x5F#8, 0x00#8) := by decide
/-- CP-3: A is kept. -/
theorem test_cp_keeps_a : readAF (after 0x580040#24 (withAF 0x3C#8 0x00#8)) = some (0x3C#8, 0x50#8) := by decide
/-- INC-3: c is kept. -/
theorem test_inc_keeps_carry : readAF (after 0x670000#24 (withAF 0xFF#8 0x10#8)) = some (0x00#8, 0xB0#8) := by decide
/-- INC-7: no carry from L into H. -/
theorem test_inc_l_leaves_h : readRRF .hl (after 0x650000#24 (withHL 0x0FFF#16 0x00#8)) = some (0x0F00#16, 0xA0#8) := by decide
/-- DEC-2: c stays clear on the wrap. -/
theorem test_dec_wraps : readAF (after 0x6F0000#24 (withAF 0x00#8 0x00#8)) = some (0xFF#8, 0x60#8) := by decide
/-- DEC-6: no nibble borrow; c is kept. -/
theorem test_dec_h_keeps_carry : readRF .h (after 0x6C0000#24 (withHL 0xFF00#16 0x10#8)) = some (0xFE#8, 0x50#8) := by decide
/-- DAA-4: 0x9A is not above 0x9F. -/
theorem test_daa_high_threshold : readAF (after 0x700000#24 (withAF 0x9A#8 0x00#8)) = some (0xA0#8, 0x10#8) := by decide
/-- DAA-28: the subtract direction wraps, and c is of the corrected A. -/
theorem test_daa_subtract_wraps : readAF (after 0x700000#24 (withAF 0x05#8 0x60#8)) = some (0xFF#8, 0x70#8) := by decide
/-- CPL-4: z stays clear although A becomes zero. -/
theorem test_cpl_keeps_zero : readAF (after 0x780000#24 (withAF 0xFF#8 0x10#8)) = some (0x00#8, 0x70#8) := by decide
/-- HL-4: both addends are HL before the operation; z is kept. -/
theorem test_addHl_hl : readRRF .hl (after 0x820000#24 (withHL 0x8A23#16 0xC0#8)) = some (0x1446#16, 0xB0#8) := by decide
/-- HL-1: the formula does not see the carry out of the low byte. -/
theorem test_addHl_no_ripple : readRRF .hl (after 0x800000#24 ((withHL 0x0FFF#16 0x00#8).writeR16 .bc 0x0001#16)) =
    some (0x1000#16, 0x00#8) := by decide
/-- W-1 -/
theorem test_incU16_carries : readRRF .bc (after 0x880000#24 ((withHL 0x0000#16 0xF0#8).writeR16 .bc 0x00FF#16)) =
    some (0x0100#16, 0xF0#8) := by decide
/-- W-2: z is not set. -/
theorem test_incU16_wraps : readRRF .hl (after 0x8A0000#24 (withHL 0xFFFF#16 0x00#8)) = some (0x0000#16, 0x00#8) := by decide
/-- W-6 -/
theorem test_decU16_borrows : readRRF .hl (after 0x920000#24 (withHL 0x1000#16 0xF0#8)) = some (0x0FFF#16, 0xF0#8) := by decide
/-- W-7: z is not set. -/
theorem test_decU16_sp : readRRF .sp (after 0x930000#24 (withSP 0x0001#16 0x00#8)) = some (0x0000#16, 0x00#8) := by decide
/-- SP-12: h and c of a negative literal. -/
theorem test_addSp_negative : readRRF .sp (after 0x980080#24 (withSP 0x0F00#16 0x00#8)) = some (0x0E80#16, 0x30#8) := by decide
/-- SP-9: z is cleared although the result is zero. -/
theorem test_addSp_zero_result : readRRF .sp (after 0x980080#24 (withSP 0x0080#16 0x80#8)) = some (0x0000#16, 0x10#8) := by decide
/-- SP-1 -/
theorem test_ldHl_result : readRRF .hl (after 0xA00008#24 (withSP 0xFFF8#16 0xF0#8)) = some (0x0000#16, 0x10#8) := by decide
/-- SP-2: SP is kept. -/
theorem test_ldHl_keeps_sp : readRRF .sp (after 0xA000F8#24 (withSP 0xFFF8#16 0x00#8)) = some (0xFFF8#16, 0x30#8) := by decide

/-! ### The register port and reset -/

/-- RF-3: the AF view drops the low nibble. -/
theorem test_port_af : (nextState (step (State.reset.present [.regWrite 12#4 0x12FF#16]))).map
    (fun t => (t.a, t.portRead 12#4, t.portRead 6#4)) = some (0x12#8, some 0x12F0#16, some 0x00F0#16) := by decide
/-- RF-5: the high byte is the first-named register. -/
theorem test_port_bc : (nextState (step (State.reset.present [.regWrite 8#4 0x1234#16]))).map
    (fun t => (t.b, t.c, t.portRead 8#4)) = some (0x12#8, 0x34#8, some 0x1234#16) := by decide
/-- RF-8: PC is written through the port only. -/
theorem test_port_pc : (nextState (step (State.reset.present [.regWrite 13#4 0x0100#16]))).map
    (fun t => (t.pc, t.sp)) = some (0x0100#16, 0x0000#16) := by decide
/-- RF-10 -/
theorem test_port_read_reserved : State.reset.portRead 14#4 = none ∧ State.reset.portRead 15#4 = none := by decide
/-- R150 -/
theorem test_reset_request : (nextState (step ((withSP 0xFFF8#16 0xF0#8).present [.reset]))) = some State.reset := by decide

/-! ### Witnesses: a concrete state and operands that meet the hypotheses of each statement that has any -/

/-- `RegisterPortRefusesReservedViews`: a reserved identifier at each end of its range, and the least data that is too
wide, for the first and the last 8-bit view. -/
theorem witness_reserved_view :
    (14 ≤ (14#4).toNat ∧ 14 ≤ (15#4).toNat) ∧
    ((0#4).toNat < 8 ∧ 256 ≤ (0x0100#16).toNat) ∧ ((7#4).toNat < 8 ∧ 256 ≤ (0xFFFF#16).toNat) := by decide

/-- `LegalWordsAreExactlyTheEncodings`, refusal: an illegal word. -/
theorem witness_illegal_word : legalCommand 0xFFFFFF#24 = false := by decide

/-- `StepExecutesTheDecodedCommand`: a word that decodes. -/
theorem witness_decodes : decode 0x200028#24 = .ok (.add 0x28#8) := by decide

/-- `EveryLegalRequestCompletes`: one legal request of each kind. -/
theorem witness_legal_requests : (Request.command 0x700000#24).wellFormed = true ∧
    (Request.regWrite 12#4 0x12FF#16).wellFormed = true ∧ Request.reset.wellFormed = true := by decide

/-- `OnlyIllegalRequestsAreRefused`: a state whose next request is illegal. -/
theorem witness_illegal_next : ∃ r rest, (State.reset.present [.command 0xA80000#24]).pending = r :: rest ∧
    r.wellFormed = false := ⟨_, [], rfl, by decide⟩

/-- A state whose waiting requests are legal, for `LegalStreamStaysLegal`, `LegalStreamAtReset` and `LegalRunsNeverStop`. -/
theorem witness_legal_state : (State.reset.present [.command 0x070019#24, .command 0x200028#24, .reset]).Legal := by
  intro r h
  revert r
  decide

/-- `LegalStreamStaysLegal`: that state has a next state. -/
theorem witness_legal_step :
    (nextState (step (State.reset.present [.command 0x070019#24, .command 0x200028#24, .reset]))).isSome = true := by decide

/-- `LegalStreamAtReset`: legal requests to present. -/
theorem witness_legal_presented : ∀ r ∈ [Request.command 0x070019#24, .regWrite 13#4 0x0100#16], r.wellFormed = true := by
  decide

/-- `LaterRequestsDoNotAffectEarlierOnes`: a run that completes. -/
theorem witness_completed_run : ∃ t, Host.Core.run Sys2Proof.core [Request.command 0x070019#24].length
    (State.reset.setPending [Request.command 0x070019#24]) = .next t := ⟨_, rfl⟩

/-- `OnlyThePortAndResetWritePc`: a step of each kind of request that gives a next state. -/
theorem witness_pc_steps : (nextState (step (State.reset.setPending [.command 0x700000#24]))).isSome = true ∧
    (nextState (step (State.reset.setPending [.regWrite 13#4 0x0100#16]))).isSome = true ∧
    (nextState (step (State.reset.setPending [.regWrite 12#4 0x0100#16]))).isSome = true ∧
    (nextState (step (State.reset.setPending [.reset]))).isSome = true := by decide

/-- `OperationsAccessOnlyTheirRegisters`: two different states that agree on what `daa` reads, and an operation that
leaves a register, SP and flags unwritten (the last two, `cpl`). -/
theorem witness_same_reads : withAF 0x1A#8 0x20#8 ≠ withAF 0x1A#8 0xA0#8 ∧
    Claims.sameFlagsRead .daa (withAF 0x1A#8 0x20#8).f (withAF 0x1A#8 0xA0#8).f ∧
    (withAF 0x1A#8 0x20#8).a = (withAF 0x1A#8 0xA0#8).a ∧
    Claims.writesR8 .daa .b = false ∧ Claims.writesSp .daa = false ∧
    (Claims.flagMask .daa).n = false ∧ (Claims.flagMask .daa).h = false ∧
    (Claims.flagMask .cpl).z = false ∧ (Claims.flagMask .cpl).c = false :=
  ⟨by decide, ⟨rfl, rfl, rfl⟩, rfl, rfl, rfl, rfl, rfl, rfl, rfl⟩

/-- `SpRelativeFormsAgree`: literals of both signs, at the boundary. -/
theorem witness_literal_signs : (0x7F#8).toNat < 128 ∧ 128 ≤ (0x80#8).toNat := by decide

/-- `DaaCorrectsDecimalSumsAndDifferences`: decimal operands at the ends of the ranges. -/
theorem witness_decimal_operands : (withAF 0x99#8 0x00#8).a = Claims.bcd 99 ∧ 99 + 0 < 100 ∧ 99 ≤ 99 ∧
    (withAF 0x42#8 0x00#8).a = Claims.bcd 42 ∧ 42 + 57 < 100 ∧ 13 ≤ 42 := by decide

end Sys2Proof.Tests
end

section
/-! PROOFS. The wrapping of the 8-bit and 16-bit sums and differences (R6), and the borrow test as the source writes it. -/

namespace Sys2Proof.Machine

theorem toNat_sum16 (x y : Word) : (sum16 x y).toNat = (x.toNat + y.toNat) % 2 ^ 16 := by
  rw [sum16_eq, BitVec.toNat_add]

/-- A narrowed integer is its remainder, read without a sign. -/
theorem coe_toNat_ofInt (w : Nat) (i : Int) : ((BitVec.ofInt w i).toNat : Int) = i % 2 ^ w := by
  rw [BitVec.toNat_ofInt, Int.toNat_of_nonneg (Int.emod_nonneg i (by positivity))]
  norm_cast

theorem coe_toNat_diff8 (x y : Byte) : ((diff8 x y).toNat : Int) = ((x.toNat : Int) - y.toNat) % 2 ^ 8 :=
  coe_toNat_ofInt 8 _

theorem coe_toNat_diff16 (x y : Word) : ((diff16 x y).toNat : Int) = ((x.toNat : Int) - y.toNat) % 2 ^ 16 :=
  coe_toNat_ofInt 16 _

/-- For two nibbles the wrapping difference leaves the nibble exactly when it borrows. -/
theorem toNat_sub_gt_nibble_iff {x y : Byte} (hx : x.toNat < 16) (hy : y.toNat < 16) :
    (x - y).toNat > 0xF ↔ x.toNat < y.toNat := by
  rw [BitVec.toNat_sub]
  omega

/-- The model's borrow test is the source's wrapping test `X - Y > 0xF` (R6). -/
theorem halfBorrow8_zero_eq_wrapping (x y : Byte) :
    halfBorrow8 x y 0 = decide (((x &&& 0x0F#8) - (y &&& 0x0F#8)).toNat > 0xF) :=
  decide_eq_decide.mpr (toNat_sub_gt_nibble_iff (nibble_lt x) (nibble_lt y)).symm

/-- Settles O48: each narrowing is a remainder modulo the width's power of two, and a difference of two nibbles leaves
the nibble exactly when it borrows. -/
theorem arithmeticWraps : Obligations.ArithmeticWraps :=
  ⟨toNat_sum8, coe_toNat_diff8, toNat_sum16, coe_toNat_diff16, halfBorrow8_zero_eq_wrapping⟩

end Sys2Proof.Machine
end

section
/-! PROOFS. The flag byte and the register file: each value as a number, then the reads and writes of every register and
view (R15 to R24, R27) and the register-port read (R29). -/

namespace Sys2Proof.Machine

/-! ### The flag byte -/

theorem getLsbD_eq_decide (b : Byte) (i : Nat) : b.getLsbD i = decide (b.toNat / 2 ^ i % 2 = 1) :=
  Nat.testBit_eq_decide_div_mod_eq

theorem toNat_getLsbD (b : Byte) (i : Nat) : (b.getLsbD i).toNat = b.toNat / 2 ^ i % 2 :=
  Nat.toNat_testBit _ _

theorem Flags.toNat_toByte (f : Flags) :
    f.toByte.toNat = 128 * f.z.toNat + 64 * f.n.toNat + 32 * f.h.toNat + 16 * f.c.toNat := by
  have := f.z.toNat_le; have := f.n.toNat_le; have := f.h.toNat_le; have := f.c.toNat_le
  rw [toByte, BitVec.toNat_ofNat]
  omega

theorem and_F0_eq_append (b : Byte) : b &&& 0xF0#8 = b.extractLsb' 4 4 ++ 0#4 := by
  have nibbles : b.extractLsb' 4 4 ++ b.extractLsb' 0 4 = b :=
    (BitVec.extractLsb'_append_extractLsb'_eq_extractLsb' rfl).trans BitVec.extractLsb'_eq_self
  calc b &&& 0xF0#8
    _ = (b.extractLsb' 4 4 ++ b.extractLsb' 0 4) &&& (BitVec.allOnes 4 ++ 0#4) := by rw [nibbles]; rfl
    _ = b.extractLsb' 4 4 ++ 0#4 := by rw [BitVec.and_append, BitVec.and_allOnes, BitVec.and_zero]

theorem toNat_and_F0 (b : Byte) : (b &&& 0xF0#8).toNat = 16 * (b.toNat / 16) := by
  rw [and_F0_eq_append, toNat_append_add, BitVec.extractLsb'_toNat, Nat.shiftRight_eq_div_pow, BitVec.toNat_ofNat]
  omega

theorem Flags.toByte_ofByte (b : Byte) : (Flags.ofByte b).toByte = b &&& 0xF0#8 := by
  apply BitVec.eq_of_toNat_eq
  rw [Flags.toNat_toByte, toNat_and_F0]
  simp only [Flags.ofByte, toNat_getLsbD]
  omega

/-- Bits 3 to 0 of the flag byte are zero, because writing it back to F keeps it and drops them. -/
theorem Flags.toByte_and_0F (f : Flags) : f.toByte &&& 0x0F#8 = 0#8 := by
  rw [← Flags.ofByte_toByte f, Flags.toByte_ofByte, BitVec.and_assoc]
  exact BitVec.and_zero

/-- Settles O3: the bits of a byte are those of its number, and `to_byte` sums the four of them that `from_byte` keeps. -/
theorem flagByteMappingRoundTrips : Obligations.FlagByteMappingRoundTrips :=
  ⟨fun b => ⟨getLsbD_eq_decide b 7, getLsbD_eq_decide b 6, getLsbD_eq_decide b 5, getLsbD_eq_decide b 4,
    Flags.toByte_ofByte b⟩,
   fun f => ⟨f.toNat_toByte, f.ofByte_toByte⟩⟩

/-! ### Pairs and their halves -/

theorem joinBytes_eq_ofNat (hi lo : Byte) : joinBytes hi lo = BitVec.ofNat 16 (256 * hi.toNat + lo.toNat) := by
  rw [← toNat_joinBytes, BitVec.ofNat_toNat, BitVec.setWidth_eq]

theorem joinBytes_zero_left (v : Byte) : joinBytes 0#8 v = v.setWidth 16 := by
  rw [joinBytes_eq_ofNat, ← BitVec.ofNat_toNat]
  simp

theorem joinBytes_and (hi lo hi' lo' : Byte) :
    joinBytes hi lo &&& joinBytes hi' lo' = joinBytes (hi &&& hi') (lo &&& lo') :=
  BitVec.and_append

theorem joinBytes_or (hi lo hi' lo' : Byte) :
    joinBytes hi lo ||| joinBytes hi' lo' = joinBytes (hi ||| hi') (lo ||| lo') :=
  BitVec.or_append

theorem highByte_eq_ofNat (v : Word) : highByte v = BitVec.ofNat 8 (v.toNat / 256) := by
  rw [← toNat_highByte, BitVec.ofNat_toNat, BitVec.setWidth_eq]

theorem lowByte_eq_ofNat (v : Word) : lowByte v = BitVec.ofNat 8 v.toNat :=
  rfl

@[simp] theorem lowByte_setWidth (v : Byte) : lowByte (v.setWidth 16) = v := by
  rw [← joinBytes_zero_left, lowByte_joinBytes]

/-- The mask of R23 on a word: its high byte, and the top nibble of its low byte. -/
theorem joinBytes_highByte_lowByte_and_F0 (v : Word) :
    joinBytes (highByte v) (lowByte v &&& 0xF0#8) = (v &&& 0xFF00#16) ||| (v &&& 0x00F0#16) := by
  calc joinBytes (highByte v) (lowByte v &&& 0xF0#8)
    _ = joinBytes (highByte v) (lowByte v) &&& joinBytes 0xFF#8 0xF0#8 := by
        rw [joinBytes_and, show 0xFF#8 = BitVec.allOnes 8 from rfl, BitVec.and_allOnes]
    _ = v &&& (0xFF00#16 ||| 0x00F0#16) := by rw [joinBytes_highByte_lowByte]; rfl
    _ = (v &&& 0xFF00#16) ||| (v &&& 0x00F0#16) := BitVec.and_or_distrib_left

theorem Flags.ofByte_lowByte (v : Word) :
    Flags.ofByte (lowByte v) = ⟨v.getLsbD 7, v.getLsbD 6, v.getLsbD 5, v.getLsbD 4⟩ := by
  simp [Flags.ofByte, lowByte]

/-! ### Pair views of the register file (R20, R21) -/

theorem State.toNat_readR16_bc (s : State) : (s.readR16 .bc).toNat = 256 * s.b.toNat + s.c.toNat :=
  toNat_joinBytes _ _

theorem State.toNat_readR16_de (s : State) : (s.readR16 .de).toNat = 256 * s.d.toNat + s.e.toNat :=
  toNat_joinBytes _ _

theorem State.toNat_readR16_hl (s : State) : (s.readR16 .hl).toNat = 256 * s.h.toNat + s.l.toNat :=
  toNat_joinBytes _ _

theorem State.writeR16_bc (s : State) (v : Word) :
    s.writeR16 .bc v = { s with b := BitVec.ofNat 8 (v.toNat / 256), c := BitVec.ofNat 8 v.toNat } := by
  rw [← highByte_eq_ofNat]; rfl

theorem State.writeR16_de (s : State) (v : Word) :
    s.writeR16 .de v = { s with d := BitVec.ofNat 8 (v.toNat / 256), e := BitVec.ofNat 8 v.toNat } := by
  rw [← highByte_eq_ofNat]; rfl

theorem State.writeR16_hl (s : State) (v : Word) :
    s.writeR16 .hl v = { s with h := BitVec.ofNat 8 (v.toNat / 256), l := BitVec.ofNat 8 v.toNat } := by
  rw [← highByte_eq_ofNat]; rfl

/-- Settles O2: a register write is read back in that register alone, and the pairs are composed of what it left. -/
theorem byteRegisterWriteChangesOneRegister : Obligations.ByteRegisterWriteChangesOneRegister := by
  intro s r v
  refine ⟨⟨rfl, rfl, rfl, rfl, rfl, rfl, rfl⟩, ?_, ?_, s.writeR8_f r v, s.writeR8_sp r v, s.writeR8_pc r v,
    s.writeR8_pending r v, State.toNat_readR16_bc _, State.toNat_readR16_bc _, State.toNat_readR16_de _,
    State.toNat_readR16_de _, State.toNat_readR16_hl _, State.toNat_readR16_hl _⟩
  · rw [State.readR8_writeR8, if_pos rfl]
  · intro r' hr
    rw [State.readR8_writeR8, if_neg hr]

/-- Settles O4: joining two bytes and taking the halves of a word are inverse, and each is arithmetic on the numbers. -/
theorem pairedViewsComposeAndDecompose : Obligations.PairedViewsComposeAndDecompose :=
  fun s v => ⟨s.toNat_readR16_bc, s.toNat_readR16_de, s.toNat_readR16_hl,
    s.writeR16_bc v, s.writeR16_de v, s.writeR16_hl v,
    s.readR16_writeR16_same .bc v, s.readR16_writeR16_same .de v, s.readR16_writeR16_same .hl v⟩

/-! ### The views that hold F (R19, R22, R23) -/

theorem State.writeView_af (s : State) (v : Word) :
    s.writeView .af v = { s with
      a := BitVec.ofNat 8 (v.toNat / 256), f := ⟨v.getLsbD 7, v.getLsbD 6, v.getLsbD 5, v.getLsbD 4⟩ } := by
  rw [← highByte_eq_ofNat, ← Flags.ofByte_lowByte]; rfl

theorem State.readView_af_and_000F (s : State) : s.readView .af &&& 0x000F#16 = 0#16 := by
  calc joinBytes s.a s.f.toByte &&& joinBytes 0#8 0x0F#8
    _ = joinBytes (s.a &&& 0#8) (s.f.toByte &&& 0x0F#8) := joinBytes_and _ _ _ _
    _ = joinBytes 0#8 0#8 := by rw [Flags.toByte_and_0F, BitVec.and_zero]

theorem State.readView_af_writeView_af (s : State) (v : Word) :
    (s.writeView .af v).readView .af = (v &&& 0xFF00#16) ||| (v &&& 0x00F0#16) := by
  rw [← joinBytes_highByte_lowByte_and_F0, ← Flags.toByte_ofByte]; rfl

/-- Settles O5: the low byte of AF is a flag byte, on which `to_byte` after `from_byte` is the mask 0xF0. -/
theorem afViewKeepsOnlyTheTopNibble : Obligations.AfViewKeepsOnlyTheTopNibble :=
  fun s v => ⟨toNat_joinBytes _ _, s.readView_af_and_000F, s.writeView_af v, s.readView_af_writeView_af v⟩

theorem State.writeView_f (s : State) (v : Byte) :
    s.writeView .f (v.setWidth 16) = { s with f := Flags.ofByte v } := by
  rw [State.writeView, lowByte_setWidth]; rfl

/-- Settles O6: the byte view of F is the flag byte below a zero byte, and `to_byte` after `from_byte` masks it. -/
theorem flagViewDropsTheLowNibble : Obligations.FlagViewDropsTheLowNibble := by
  intro s v
  refine ⟨?_, s.writeView_f v, ?_⟩
  · exact (toNat_joinBytes 0#8 s.f.toByte).trans ((Nat.zero_add _).trans s.f.toNat_toByte)
  · rw [State.writeView_f, ← Flags.toByte_ofByte]
    exact joinBytes_zero_left _

/-! ### SP, PC, reset and the register port (R24, R27, R29) -/

/-- Settles O7: SP and PC are stored fields, read and written as they are. -/
theorem spAndPcAreStoredUnchanged : Obligations.SpAndPcAreStoredUnchanged :=
  fun _ _ => ⟨rfl, rfl, rfl, rfl, rfl, rfl⟩

theorem State.readView_reset (v : View) : State.reset.readView v = 0x0000#16 := by
  cases v <;> rfl

theorem State.readR8_reset (r : R8) : State.reset.readR8 r = 0#8 := by
  cases r <;> rfl

/-- Settles O1: every stored item is zero after reset, and every view is composed of zeros. -/
theorem resetLeavesEveryItemZero : Obligations.ResetLeavesEveryItemZero :=
  ⟨State.readR8_reset, rfl, rfl, rfl, rfl, rfl, rfl, State.readView_reset⟩

theorem State.portRead_id (s : State) (v : View) : s.portRead v.id = some (s.readView v) := by
  rw [portRead, View.ofId_id, Option.map_some]

theorem State.portRead_byte (s : State) (v : View) {x : Byte} (h : s.readView v = joinBytes 0#8 x) :
    s.portRead v.id = some (x.setWidth 16) := by
  rw [portRead_id, h, joinBytes_zero_left]

theorem State.portRead_pair (s : State) (v : View) {hi lo : Byte} (h : s.readView v = joinBytes hi lo) :
    s.portRead v.id = some (BitVec.ofNat 16 (256 * hi.toNat + lo.toNat)) := by
  rw [portRead_id, h, joinBytes_eq_ofNat]

/-- Settles O9: a port read is the read of the view that the identifier names; an 8-bit view stands below a zero byte. -/
theorem registerPortReadReturnsTheView : Obligations.RegisterPortReadReturnsTheView :=
  fun s => ⟨s.portRead_byte .b rfl, s.portRead_byte .c rfl, s.portRead_byte .d rfl, s.portRead_byte .e rfl,
    s.portRead_byte .h rfl, s.portRead_byte .l rfl, s.portRead_byte .f rfl, s.portRead_byte .a rfl,
    s.portRead_pair .bc rfl, s.portRead_pair .de rfl, s.portRead_pair .hl rfl, s.portRead_id .sp,
    s.portRead_pair .af rfl, s.portRead_id .pc⟩

end Sys2Proof.Machine
end

section
/-! PROOFS. The access table of R26, operation by operation. Every operation is a write of registers and then a write of
F; each half is shown to keep what its row does not list and to depend on nothing but what the row lists as read. -/

namespace Sys2Proof.Machine

open Sys2Proof.Claims

/-! ### Registers through their halves -/

/-- A half of the written pair takes its byte of the value, whatever the state was; any other register is kept. -/
theorem State.readR8_writeR16 (s s₀ : State) (rr : R16) (v : Word) (r : R8) :
    (s.writeR16 rr v).readR8 r = if halfOf rr r then (s₀.writeR16 rr v).readR8 r else s.readR8 r := by
  cases rr <;> cases r <;> rfl

theorem State.readR8_writeR16_of_not_half (s : State) {rr : R16} {r : R8} (h : halfOf rr r = false) (v : Word) :
    (s.writeR16 rr v).readR8 r = s.readR8 r := by
  rw [s.readR8_writeR16 s, h, if_neg Bool.false_ne_true]

theorem State.sp_writeR16 (s : State) (rr : R16) (v : Word) :
    (s.writeR16 rr v).sp = if rr == .sp then v else s.sp := by
  cases rr <;> rfl

theorem State.readR16_congr {s₁ s₂ : State} {rr : R16}
    (hr : ∀ r, halfOf rr r = true → s₁.readR8 r = s₂.readR8 r) (hsp : rr = .sp → s₁.sp = s₂.sp) :
    s₁.readR16 rr = s₂.readR16 rr := by
  cases rr with
  | bc => exact congrArg₂ joinBytes (hr .b rfl) (hr .c rfl)
  | de => exact congrArg₂ joinBytes (hr .d rfl) (hr .e rfl)
  | hl => exact congrArg₂ joinBytes (hr .h rfl) (hr .l rfl)
  | sp => exact hsp rfl

/-! ### What a row of the access table says -/

/-- Two states agree on everything that the operation reads. -/
structure ReadsAgree (i : Instr) (s₁ s₂ : State) : Prop where
  r8 : ∀ r, readsR8 i r = true → s₁.readR8 r = s₂.readR8 r
  sp : readsSp i = true → s₁.sp = s₂.sp
  flags : sameFlagsRead i s₁.f s₂.f

theorem ReadsAgree.readR16 {i : Instr} {s₁ s₂ : State} (h : ReadsAgree i s₁ s₂) {rr : R16}
    (hr : ∀ r, halfOf rr r = true → readsR8 i r = true) (hsp : rr = .sp → readsSp i = true) :
    s₁.readR16 rr = s₂.readR16 rr :=
  State.readR16_congr (fun r half => h.r8 r (hr r half)) (fun e => h.sp (hsp e))

/-- A write `w` of registers that follows the row of the operation. -/
structure RegisterAccess (i : Instr) (w : State → State) : Prop where
  kept_r8 : ∀ s r, writesR8 i r = false → (w s).readR8 r = s.readR8 r
  kept_sp : ∀ s, writesSp i = false → (w s).sp = s.sp
  kept_pc : ∀ s, (w s).pc = s.pc
  kept_pending : ∀ s, (w s).pending = s.pending
  same_r8 : ∀ {s₁ s₂}, ReadsAgree i s₁ s₂ → ∀ r, writesR8 i r = true → (w s₁).readR8 r = (w s₂).readR8 r
  same_sp : ∀ {s₁ s₂}, ReadsAgree i s₁ s₂ → writesSp i = true → (w s₁).sp = (w s₂).sp

/-- Two flag values are equal on the flags whose bit of the mask is `m`. -/
def Flags.EqWhere (mask : Flags) (m : Bool) (f g : Flags) : Prop :=
  (mask.z = m → f.z = g.z) ∧ (mask.n = m → f.n = g.n) ∧ (mask.h = m → f.h = g.h) ∧ (mask.c = m → f.c = g.c)

theorem Flags.eqWhere_of_eq {mask : Flags} {m : Bool} {f g : Flags} (h : f = g) : Flags.EqWhere mask m f g := by
  subst h
  exact ⟨fun _ => rfl, fun _ => rfl, fun _ => rfl, fun _ => rfl⟩

/-- New flags `fl` that follow the row of the operation: outside its write mask (R77) they are the old ones. -/
structure FlagAccess (i : Instr) (fl : State → Flags) : Prop where
  kept : ∀ s, Flags.EqWhere (flagMask i) false (fl s) s.f
  same : ∀ {s₁ s₂}, ReadsAgree i s₁ s₂ → Flags.EqWhere (flagMask i) true (fl s₁) (fl s₂)

/-- The operation is a write of registers and a write of F, and both follow its row. -/
def FollowsRow (i : Instr) : Prop :=
  ∃ w fl, (∀ s, exec i s = .next ((w s).setFlags (fl s))) ∧ RegisterAccess i w ∧ FlagAccess i fl

section Shapes

variable {i : Instr}

/-! ### The shapes of a register write -/

theorem RegisterAccess.none (hw : ∀ r, writesR8 i r = false) (hsp : writesSp i = false) : RegisterAccess i id where
  kept_r8 _ _ _ := rfl
  kept_sp _ _ := rfl
  kept_pc _ := rfl
  kept_pending _ := rfl
  same_r8 _ r h := by simp [hw r] at h
  same_sp _ h := by simp [hsp] at h

theorem RegisterAccess.writeR8 {x : R8} {val : State → Byte} (hw : ∀ r, writesR8 i r = (r == x))
    (hsp : writesSp i = false) (hval : ∀ {s₁ s₂}, ReadsAgree i s₁ s₂ → val s₁ = val s₂) :
    RegisterAccess i fun s => s.writeR8 x (val s) where
  kept_r8 s r h := by
    have hne : r ≠ x := by simpa [hw] using h
    rw [State.readR8_writeR8, if_neg hne]
  kept_sp s _ := s.writeR8_sp x _
  kept_pc s := s.writeR8_pc x _
  kept_pending s := s.writeR8_pending x _
  same_r8 agree r h := by
    have heq : r = x := by simpa [hw] using h
    rw [State.readR8_writeR8, State.readR8_writeR8, if_pos heq, if_pos heq, hval agree]
  same_sp _ h := by simp [hsp] at h

theorem RegisterAccess.writeR16 {rr : R16} {val : State → Word} (hw : ∀ r, writesR8 i r = halfOf rr r)
    (hsp : writesSp i = (rr == .sp)) (hval : ∀ {s₁ s₂}, ReadsAgree i s₁ s₂ → val s₁ = val s₂) :
    RegisterAccess i fun s => s.writeR16 rr (val s) where
  kept_r8 s r h := s.readR8_writeR16_of_not_half ((hw r).symm.trans h) _
  kept_sp s h := by rw [State.sp_writeR16, ← hsp, h, if_neg Bool.false_ne_true]
  kept_pc s := s.writeR16_pc rr _
  kept_pending s := s.writeR16_pending rr _
  same_r8 {s₁ s₂} agree r h := by rw [s₁.readR8_writeR16 s₂, ← hw, if_pos h, hval agree]
  same_sp agree h := by rw [State.sp_writeR16, State.sp_writeR16, ← hsp, if_pos h, if_pos h, hval agree]

/-- The register write of `ldi` and `ldd`: a literal into a register, then an update of HL as that write left it. -/
theorem RegisterAccess.writeR8_updateHl {x : R8} {v : Byte} {update : Word → Word}
    (hr : ∀ r, readsR8 i r = halfOf .hl r) (hw : ∀ r, writesR8 i r = (r == x || halfOf .hl r))
    (hsp : writesSp i = false) :
    RegisterAccess i fun s => (s.writeR8 x v).writeR16 .hl (update ((s.writeR8 x v).readR16 .hl)) where
  kept_r8 s r h := by
    obtain ⟨hne, half⟩ : r ≠ x ∧ halfOf .hl r = false := by simpa [hw] using h
    rw [State.readR8_writeR16_of_not_half _ half, State.readR8_writeR8, if_neg hne]
  kept_sp s _ := s.writeR8_sp x v
  kept_pc s := s.writeR8_pc x v
  kept_pending s := s.writeR8_pending x v
  same_r8 {s₁ s₂} agree r h := by
    have hl : (s₁.writeR8 x v).readR16 .hl = (s₂.writeR8 x v).readR16 .hl := by
      refine State.readR16_congr (fun r' half => ?_) nofun
      rw [State.readR8_writeR8, State.readR8_writeR8, agree.r8 r' ((hr r').trans half)]
    cases half : halfOf .hl r with
    | true => rw [State.readR8_writeR16 _ (s₂.writeR8 x v), half, if_pos rfl, hl]
    | false =>
      have heq : r = x := by simpa [hw, half] using h
      rw [State.readR8_writeR16_of_not_half _ half, State.readR8_writeR16_of_not_half _ half,
        State.readR8_writeR8, State.readR8_writeR8, if_pos heq, if_pos heq]
  same_sp _ h := by simp [hsp] at h

/-! ### The shapes of a flag write -/

theorem FlagAccess.none {fl : State → Flags} (hmask : flagMask i = ⟨false, false, false, false⟩)
    (hfl : ∀ s, fl s = s.f) : FlagAccess i fl where
  kept s := Flags.eqWhere_of_eq (hfl s)
  same _ := by simp [Flags.EqWhere, hmask]

theorem FlagAccess.all {fl : State → Flags} (hmask : flagMask i = ⟨true, true, true, true⟩)
    (hfl : ∀ {s₁ s₂}, ReadsAgree i s₁ s₂ → fl s₁ = fl s₂) : FlagAccess i fl where
  kept _ := by simp [Flags.EqWhere, hmask]
  same agree := Flags.eqWhere_of_eq (hfl agree)

theorem FlagAccess.inc (r : R8) : FlagAccess (.inc r) fun s => incFlags (s.readR8 r) s.f where
  kept _ := by simp [Flags.EqWhere, flagMask, incFlags]
  same agree := by simp [Flags.EqWhere, flagMask, incFlags, agree.r8 r (beq_self_eq_true r)]

theorem FlagAccess.dec (r : R8) : FlagAccess (.dec r) fun s => decFlags (s.readR8 r) s.f where
  kept _ := by simp [Flags.EqWhere, flagMask, decFlags]
  same agree := by simp [Flags.EqWhere, flagMask, decFlags, agree.r8 r (beq_self_eq_true r)]

/-- `daa` corrects A by n, h and c; it does not see z (R110). -/
theorem ReadsAgree.daaResult {s₁ s₂ : State} (agree : ReadsAgree .daa s₁ s₂) :
    daaResult s₁.a s₁.f = daaResult s₂.a s₂.f := by
  obtain ⟨hn, hh, hc⟩ := agree.flags
  calc Machine.daaResult s₁.a s₁.f
    _ = Machine.daaResult s₁.a { s₁.f with z := s₂.f.z } := rfl
    _ = Machine.daaResult s₂.a s₂.f := congrArg₂ _ (agree.r8 .a rfl) (Flags.ext rfl hn hh hc)

theorem FlagAccess.daa : FlagAccess .daa fun s => daaFlags s.a s.f where
  kept _ := by simp [Flags.EqWhere, flagMask, daaFlags]
  same agree := by simp [Flags.EqWhere, flagMask, daaFlags, agree.daaResult]

theorem FlagAccess.cpl : FlagAccess .cpl fun s => cplFlags s.f where
  kept _ := by simp [Flags.EqWhere, flagMask, cplFlags]
  same _ := by simp [Flags.EqWhere, flagMask, cplFlags]

theorem ReadsAgree.addHl_hl {rr : R16} {s₁ s₂ : State} (agree : ReadsAgree (.addHl rr) s₁ s₂) :
    s₁.readR16 .hl = s₂.readR16 .hl :=
  agree.readR16 (fun r half => by simp [readsR8, half]) nofun

theorem ReadsAgree.addHl_operand {rr : R16} {s₁ s₂ : State} (agree : ReadsAgree (.addHl rr) s₁ s₂) :
    s₁.readR16 rr = s₂.readR16 rr :=
  agree.readR16 (fun r half => by simp [readsR8, half]) beq_iff_eq.mpr

theorem FlagAccess.addHl (rr : R16) :
    FlagAccess (.addHl rr) fun s => addHlFlags (s.readR16 .hl) (s.readR16 rr) s.f where
  kept _ := by simp [Flags.EqWhere, flagMask, addHlFlags]
  same agree := by simp [Flags.EqWhere, flagMask, addHlFlags, agree.addHl_hl, agree.addHl_operand]

/-! ### The shapes of an operation -/

/-- An operation that writes A and all four flags. -/
theorem FollowsRow.accumulator {val : State → Byte} {fl : State → Flags}
    (hexec : ∀ s, exec i s = .next (s.writeAccumulator (val s) (fl s)))
    (hw : ∀ r, writesR8 i r = (r == .a)) (hsp : writesSp i = false) (hmask : flagMask i = ⟨true, true, true, true⟩)
    (hval : ∀ {s₁ s₂}, ReadsAgree i s₁ s₂ → val s₁ = val s₂)
    (hfl : ∀ {s₁ s₂}, ReadsAgree i s₁ s₂ → fl s₁ = fl s₂) : FollowsRow i :=
  ⟨_, fl, hexec, .writeR8 hw hsp hval, .all hmask hfl⟩

/-- An operation that writes registers and no flag. -/
theorem FollowsRow.registers {w : State → State} (hexec : ∀ s, exec i s = .next (w s))
    (hmask : flagMask i = ⟨false, false, false, false⟩) (hf : ∀ s, (w s).f = s.f) (hw : RegisterAccess i w) :
    FollowsRow i :=
  ⟨w, fun s => (w s).f, hexec, hw, .none hmask hf⟩

end Shapes

/-- Every operation follows its row of the access table (R26, R77). -/
theorem followsRow : ∀ i, FollowsRow i
  | .ld r v => .registers (exec_ld r v) rfl (fun s => s.writeR8_f r v) (.writeR8 (fun _ => rfl) rfl fun _ => rfl)
  | .ldi r v =>
    .registers (exec_ldi r v) rfl (fun s => s.writeR8_f r v)
      (.writeR8_updateHl (update := (· + 1#16)) (fun _ => rfl) (fun _ => rfl) rfl)
  | .ldd r v =>
    .registers (exec_ldd r v) rfl (fun s => s.writeR8_f r v)
      (.writeR8_updateHl (update := (· - 1#16)) (fun _ => rfl) (fun _ => rfl) rfl)
  | .ldU16 rr w =>
    .registers (exec_ldU16 rr w) rfl (fun s => s.writeR16_f rr w) (.writeR16 (fun _ => rfl) rfl fun _ => rfl)
  | .add v =>
    .accumulator (exec_add v) (fun _ => rfl) rfl rfl (fun agree => congrArg (· + v) (agree.r8 .a rfl))
      (fun agree => congrArg (addFlags · v 0) (agree.r8 .a rfl))
  | .adc v =>
    .accumulator (exec_adc v) (fun _ => rfl) rfl rfl
      (fun agree => congrArg₂ (fun a (c : Bool) => sum8 a v c.toNat) (agree.r8 .a rfl) agree.flags)
      (fun agree => congrArg₂ (fun a (c : Bool) => addFlags a v c.toNat) (agree.r8 .a rfl) agree.flags)
  | .sub v =>
    .accumulator (exec_sub v) (fun _ => rfl) rfl rfl (fun agree => congrArg (· - v) (agree.r8 .a rfl))
      (fun agree => congrArg (subFlags · v) (agree.r8 .a rfl))
  | .sbc v =>
    .accumulator (exec_sbc v) (fun _ => rfl) rfl rfl
      (fun agree => congrArg₂ (fun a (c : Bool) => sum8 a v c.toNat) (agree.r8 .a rfl) agree.flags)
      (fun agree => congrArg₂ (fun a (c : Bool) => sbcFlags a v c.toNat) (agree.r8 .a rfl) agree.flags)
  | .and v =>
    .accumulator (exec_and v) (fun _ => rfl) rfl rfl (fun agree => congrArg (· &&& v) (agree.r8 .a rfl))
      (fun agree => congrArg (fun a => logicFlags (a &&& v) true) (agree.r8 .a rfl))
  | .xor v =>
    .accumulator (exec_xor v) (fun _ => rfl) rfl rfl (fun agree => congrArg (· ^^^ v) (agree.r8 .a rfl))
      (fun agree => congrArg (fun a => logicFlags (a ^^^ v) false) (agree.r8 .a rfl))
  | .or v =>
    .accumulator (exec_or v) (fun _ => rfl) rfl rfl (fun agree => congrArg (· ||| v) (agree.r8 .a rfl))
      (fun agree => congrArg (fun a => logicFlags (a ||| v) false) (agree.r8 .a rfl))
  | .cp v =>
    ⟨_, _, exec_cp v, .none (fun _ => rfl) rfl, .all rfl fun agree => congrArg (subFlags · v) (agree.r8 .a rfl)⟩
  | .inc r =>
    ⟨_, _, exec_inc r,
      .writeR8 (fun _ => rfl) rfl fun agree => congrArg (· + 1#8) (agree.r8 r (beq_self_eq_true r)), .inc r⟩
  | .dec r =>
    ⟨_, _, exec_dec r,
      .writeR8 (fun _ => rfl) rfl fun agree => congrArg (· - 1#8) (agree.r8 r (beq_self_eq_true r)), .dec r⟩
  | .daa => ⟨_, _, exec_daa, .writeR8 (fun _ => rfl) rfl fun agree => agree.daaResult, .daa⟩
  | .cpl =>
    ⟨_, _, exec_cpl, .writeR8 (fun _ => rfl) rfl fun agree => congrArg (· ^^^ 0xFF#8) (agree.r8 .a rfl), .cpl⟩
  | .addHl rr =>
    ⟨_, _, exec_addHl rr,
      .writeR16 (fun _ => rfl) rfl fun agree => congrArg₂ (· + ·) agree.addHl_hl agree.addHl_operand, .addHl rr⟩
  | .incU16 rr =>
    .registers (exec_incU16 rr) rfl (fun s => s.writeR16_f rr _)
      (.writeR16 (fun _ => rfl) rfl fun agree => congrArg (· + 1#16) (agree.readR16 (fun _ => id) beq_iff_eq.mpr))
  | .decU16 rr =>
    .registers (exec_decU16 rr) rfl (fun s => s.writeR16_f rr _)
      (.writeR16 (fun _ => rfl) rfl fun agree => congrArg (· - 1#16) (agree.readR16 (fun _ => id) beq_iff_eq.mpr))
  | .addSp e =>
    ⟨_, _, exec_addSp e, .writeR16 (fun _ => rfl) rfl fun agree => congrArg (· + sext16 e) (agree.sp rfl),
      .all rfl fun agree => congrArg (spFlags · (sext16 e)) (agree.sp rfl)⟩
  | .ldHl e =>
    ⟨_, _, exec_ldHl e, .writeR16 (fun _ => rfl) rfl fun agree => congrArg (· + sext16 e) (agree.sp rfl),
      .all rfl fun agree => congrArg (spFlags · (sext16 e)) (agree.sp rfl)⟩

/-- Settles O45: the registers and the flags that an operation writes follow its row, each half on its own. -/
theorem operationsAccessOnlyTheirRegisters : Obligations.OperationsAccessOnlyTheirRegisters := by
  intro i s₁ s₂
  obtain ⟨w, fl, hexec, hw, hfl⟩ := followsRow i
  obtain ⟨hz, hn, hh, hc⟩ := hfl.kept s₁
  refine ⟨_, _, hexec s₁, hexec s₂, hw.kept_r8 s₁, hw.kept_sp s₁, hw.kept_pc s₁, hw.kept_pending s₁, hz, hn, hh, hc, ?_⟩
  intro hr8 hsp hflags
  have agree : ReadsAgree i s₁ s₂ := ⟨hr8, hsp, hflags⟩
  exact ⟨hw.same_r8 agree, hw.same_sp agree, hfl.same agree⟩

end Sys2Proof.Machine
end

section
/-! PROOFS. PC (R14): no operation reads or writes it, so only the register port and reset change it. -/

namespace Sys2Proof.Machine

open Sys2Proof.Claims

/-! ### Operations do not see PC -/

theorem sameFlagsRead_refl (i : Instr) (f : Flags) : sameFlagsRead i f f := by
  cases i <;> simp [sameFlagsRead]

/-- The program counter is read by no operation. -/
theorem ReadsAgree.setPc (i : Instr) (s : State) (p : Word) : ReadsAgree i { s with pc := p } s where
  r8 _ _ := rfl
  sp _ := rfl
  flags := sameFlagsRead_refl i s.f

/-- What is written alike in two states, and kept where it is not written, agrees if it agreed before. -/
theorem eq_of_written_or_kept {α : Type} {m : Bool} {a b a₀ b₀ : α} (written : m = true → a = b)
    (kept_a : m = false → a = a₀) (kept_b : m = false → b = b₀) (before : a₀ = b₀) : a = b := by
  cases m with
  | true => exact written rfl
  | false => rw [kept_a rfl, kept_b rfl, before]

theorem FlagAccess.eq_of_agree {i : Instr} {fl : State → Flags} (h : FlagAccess i fl) {s₁ s₂ : State}
    (agree : ReadsAgree i s₁ s₂) (before : s₁.f = s₂.f) : fl s₁ = fl s₂ := by
  obtain ⟨z, n, h', c⟩ := h.same agree
  obtain ⟨z₁, n₁, h₁, c₁⟩ := h.kept s₁
  obtain ⟨z₂, n₂, h₂, c₂⟩ := h.kept s₂
  exact Flags.ext (eq_of_written_or_kept z z₁ z₂ (congrArg Flags.z before))
    (eq_of_written_or_kept n n₁ n₂ (congrArg Flags.n before))
    (eq_of_written_or_kept h' h₁ h₂ (congrArg Flags.h before))
    (eq_of_written_or_kept c c₁ c₂ (congrArg Flags.c before))

theorem State.ext_readR8 {s t : State} (hr8 : ∀ r, s.readR8 r = t.readR8 r) (hf : s.f = t.f) (hsp : s.sp = t.sp)
    (hpc : s.pc = t.pc) (hpending : s.pending = t.pending) : s = t :=
  State.ext (hr8 .a) (hr8 .b) (hr8 .c) (hr8 .d) (hr8 .e) (hr8 .h) (hr8 .l) hf hsp hpc hpending

theorem exec_pc {i : Instr} {s t : State} (h : exec i s = .next t) : t.pc = s.pc := by
  obtain ⟨w, fl, hexec, hw, -⟩ := followsRow i
  cases (hexec s).symm.trans h
  exact hw.kept_pc s

/-- An operation commutes with a change of PC: by its row, everything else of the next state is as before. -/
theorem exec_setPc {i : Instr} {s t : State} (h : exec i s = .next t) (p : Word) :
    exec i { s with pc := p } = .next { t with pc := p } := by
  obtain ⟨w, fl, hexec, hw, hfl⟩ := followsRow i
  cases (hexec s).symm.trans h
  have agree := ReadsAgree.setPc i s p
  rw [hexec]
  refine congrArg _ (State.ext_readR8 (fun r => ?_) (hfl.eq_of_agree agree rfl) ?_ (hw.kept_pc _) ?_)
  · exact eq_of_written_or_kept (hw.same_r8 agree r) (hw.kept_r8 _ r) (hw.kept_r8 s r) rfl
  · exact eq_of_written_or_kept (hw.same_sp agree) (hw.kept_sp _) (hw.kept_sp s) rfl
  · exact (hw.kept_pending _).trans (hw.kept_pending s).symm

/-! ### Requests that change PC -/

theorem View.ofId_of_decodeRegWrite {id : ViewId} {data : Word} {v : View} (h : decodeRegWrite id data = .ok v) :
    View.ofId id = some v := by
  unfold decodeRegWrite at h
  split at h
  case h_1 => cases h
  case h_2 u hu =>
    split at h
    · cases h
    · cases h
      exact hu

theorem View.id_eq_pc_iff (v : View) : v.id = 13#4 ↔ v = .pc := by
  cases v <;> decide

theorem State.writeView_pc (s : State) (v : View) (data : Word) :
    (s.writeView v data).pc = if v = .pc then data else s.pc := by
  cases v <;> rfl

theorem runRequest_command_pc {w : CommandWord} {s t : State} (h : runRequest (.command w) s = .next t) :
    t.pc = s.pc := by
  cases hdec : decode w with
  | ok i => exact exec_pc ((runRequest_command_ok hdec s).symm.trans h)
  | error why => cases (runRequest_command_error hdec s).symm.trans h

theorem runRequest_regWrite_pc {id : ViewId} {data : Word} {s t : State}
    (h : runRequest (.regWrite id data) s = .next t) : t.pc = if id = 13#4 then data else s.pc := by
  cases hdec : decodeRegWrite id data with
  | ok v =>
    cases (runRequest_regWrite_ok hdec s).symm.trans h
    rw [State.writeView_pc, ← View.id_of_ofId (View.ofId_of_decodeRegWrite hdec)]
    simp only [View.id_eq_pc_iff]
  | error why => cases (runRequest_regWrite_error hdec s).symm.trans h

/-- Settles O47: an operation commutes with a change of PC, and of the requests only a write of view 13 and reset set
it. -/
theorem onlyThePortAndResetWritePc : Obligations.OnlyThePortAndResetWritePc := by
  constructor
  · intro i s p
    obtain ⟨w, fl, hexec, -, -⟩ := followsRow i
    exact ⟨_, hexec s, exec_pc (hexec s), exec_setPc (hexec s) p⟩
  · intro s t r rest h
    rw [step_setPending_cons] at h
    cases r with
    | command w => rw [runRequest_command_pc h, State.setPending_pc]
    | regWrite id data => rw [runRequest_regWrite_pc h, State.setPending_pc]
    | reset =>
      cases (runRequest_reset _).symm.trans h
      rfl

end Sys2Proof.Machine
end

section
/-! PROOFS. The serial stream of requests (R46, R70): no request sees those that wait behind it, so presenting further
requests commutes with a step, and with a run that does not outlast the stream. -/

namespace Sys2Proof.Machine

/-! ### Requests do not see the stream -/

/-- The result of an operation is settled by the registers and the flags, whatever PC and the stream hold. -/
theorem exec_congr {i : Instr} {s₁ s₂ t₁ : State} (h : exec i s₁ = .next t₁)
    (hr8 : ∀ r, s₁.readR8 r = s₂.readR8 r) (hf : s₁.f = s₂.f) (hsp : s₁.sp = s₂.sp) :
    exec i s₂ = .next { t₁ with pc := s₂.pc, pending := s₂.pending } := by
  obtain ⟨w, fl, hexec, hw, hfl⟩ := followsRow i
  cases (hexec s₁).symm.trans h
  have agree : ReadsAgree i s₁ s₂ := ⟨fun r _ => hr8 r, fun _ => hsp, hf ▸ sameFlagsRead_refl i s₁.f⟩
  rw [hexec]
  refine congrArg _ (State.ext_readR8 (fun r => ?_) (hfl.eq_of_agree agree hf).symm ?_ (hw.kept_pc s₂)
    (hw.kept_pending s₂))
  · exact (eq_of_written_or_kept (hw.same_r8 agree r) (hw.kept_r8 s₁ r) (hw.kept_r8 s₂ r) (hr8 r)).symm
  · exact (eq_of_written_or_kept (hw.same_sp agree) (hw.kept_sp s₁) (hw.kept_sp s₂) hsp).symm

theorem exec_setPending {i : Instr} {s t : State} (h : exec i s = .next t) (rs : List Request) :
    exec i (s.setPending rs) = .next (t.setPending rs) := by
  rw [exec_congr h (fun r => (s.readR8_setPending rs r).symm) rfl rfl, State.setPending_pc, ← exec_pc h]
  rfl

theorem State.writeView_setPending (s : State) (rs : List Request) (v : View) (data : Word) :
    (s.setPending rs).writeView v data = (s.writeView v data).setPending rs := by
  cases v <;> rfl

theorem runRequest_setPending {r : Request} {s t : State} (h : runRequest r s = .next t) (rs : List Request) :
    runRequest r (s.setPending rs) = .next (t.setPending rs) := by
  cases r with
  | command w =>
    cases hdec : decode w with
    | ok i =>
      rw [runRequest_command_ok hdec] at h ⊢
      exact exec_setPending h rs
    | error why => cases (runRequest_command_error hdec s).symm.trans h
  | regWrite id data =>
    cases hdec : decodeRegWrite id data with
    | ok v =>
      cases (runRequest_regWrite_ok hdec s).symm.trans h
      rw [runRequest_regWrite_ok hdec, State.writeView_setPending]
    | error why => cases (runRequest_regWrite_error hdec s).symm.trans h
  | reset =>
    cases (runRequest_reset s).symm.trans h
    rfl

/-- A request keeps the stream, since it would answer the same state with the stream put back. -/
theorem runRequest_pending {r : Request} {s t : State} (h : runRequest r s = .next t) : t.pending = s.pending := by
  have restored := runRequest_setPending h s.pending
  rw [State.setPending_self, h] at restored
  have same : t = t.setPending s.pending := Host.Outcome.next.inj restored
  exact (congrArg State.pending same).trans (t.setPending_pending s.pending)

/-! ### Steps -/

theorem step_pending {s t : State} (h : step s = .next t) : t.pending = s.pending.tail := by
  cases hs : s.pending with
  | nil =>
    cases (step_idle hs).symm.trans h
    exact hs
  | cons r rest => exact runRequest_pending ((step_cons hs).symm.trans h)

theorem step_present {s t : State} (hs : s.pending ≠ []) (h : step s = .next t) (later : List Request) :
    step (s.present later) = .next (t.present later) := by
  obtain ⟨r, rest, hs⟩ := List.exists_cons_of_ne_nil hs
  rw [step_cons hs] at h
  have ht : t.pending = rest := runRequest_pending h
  rw [State.present, State.present, hs, ht]
  exact runRequest_setPending h (rest ++ later)

/-! ### Runs -/

theorem exists_step_of_run_succ {k : Nat} {s t : State} (h : Host.Core.run Sys2Proof.core (k + 1) s = .next t) :
    ∃ u, step s = .next u ∧ Host.Core.run Sys2Proof.core k u = .next t := by
  cases hs : step s with
  | next u => exact ⟨u, rfl, (run_succ_of_next hs k).symm.trans h⟩
  | fault x => cases x
  | refused why => cases (run_succ_of_refused hs k).symm.trans h

theorem run_pending {k : Nat} {s t : State} (h : Host.Core.run Sys2Proof.core k s = .next t) :
    t.pending = s.pending.drop k := by
  induction k generalizing s with
  | zero => cases h; rfl
  | succ k ih =>
    obtain ⟨u, hstep, hrun⟩ := exists_step_of_run_succ h
    rw [ih hrun, step_pending hstep, List.drop_tail]

theorem run_add {m : Nat} {s t : State} (h : Host.Core.run Sys2Proof.core m s = .next t) (n : Nat) :
    Host.Core.run Sys2Proof.core (m + n) s = Host.Core.run Sys2Proof.core n t := by
  induction m generalizing s with
  | zero => cases h; rw [Nat.zero_add]
  | succ m ih =>
    obtain ⟨u, hstep, hrun⟩ := exists_step_of_run_succ h
    rw [Nat.add_right_comm, run_succ_of_next hstep, ih hrun]

/-- As long as a run takes only requests that wait already, those presented behind them do not change it. -/
theorem run_present {k : Nat} {s t : State} (hk : k ≤ s.pending.length)
    (h : Host.Core.run Sys2Proof.core k s = .next t) (later : List Request) :
    Host.Core.run Sys2Proof.core k (s.present later) = .next (t.present later) := by
  induction k generalizing s with
  | zero => cases h; rfl
  | succ k ih =>
    obtain ⟨u, hstep, hrun⟩ := exists_step_of_run_succ h
    have waiting : s.pending ≠ [] := List.ne_nil_of_length_pos (Nat.lt_of_lt_of_le k.succ_pos hk)
    have enough : k ≤ u.pending.length := by
      rw [step_pending hstep, List.length_tail]
      exact Nat.le_sub_one_of_lt hk
    rw [run_succ_of_next (step_present waiting hstep later)]
    exact ih enough hrun

/-- Settles O23: a run as long as the stream empties it, presenting requests behind the stream commutes with that run,
and a longer run continues from its result. -/
theorem laterRequestsDoNotAffectEarlierOnes : Obligations.LaterRequestsDoNotAffectEarlierOnes := by
  intro earlier later s t h
  have emptied : t.pending = [] := (run_pending h).trans List.drop_length
  have first : Host.Core.run Sys2Proof.core earlier.length (s.setPending (earlier ++ later)) =
      .next (t.setPending later) := by
    have commuted := run_present (Nat.le_refl earlier.length) h later
    rwa [State.present, State.present, emptied] at commuted
  exact ⟨emptied, first, run_add first later.length⟩

end Sys2Proof.Machine
end

section
/-! PROOFS. The decoder, the encoder, the opcode map and the list of illegal words agree (R52, R53, R60), each compared
through the three fields of a word; and the selector codes (R54, R55). -/

namespace Sys2Proof

open Sys2Proof.Machine Sys2Proof.Laws

/-! ### Fields and operands -/

theorem eq_pack_iff {w : CommandWord} {op : BitVec 5} {sel : BitVec 3} {imm : Word} :
    w = pack op sel imm ↔ opField w = op ∧ selField w = sel ∧ immField w = imm := by
  constructor
  · rintro rfl
    exact ⟨opField_pack .., selField_pack .., immField_pack ..⟩
  · rintro ⟨rfl, rfl, rfl⟩
    exact (pack_fields w).symm

theorem R8.ofCode_eq_some_iff {c : BitVec 3} {r : R8} : R8.ofCode c = some r ↔ c = r.code :=
  ⟨fun h => (R8.code_of_ofCode h).symm, fun h => h ▸ R8.ofCode_code r⟩

theorem R16.ofCode_eq_some_iff {c : BitVec 3} {rr : R16} : R16.ofCode c = some rr ↔ c = rr.code :=
  ⟨fun h => (R16.code_of_ofCode h).symm, fun h => h ▸ R16.ofCode_code rr⟩

theorem immByte_eq_some_iff {w : CommandWord} {v : Byte} : immByte w = some v ↔ immField w = v.setWidth 16 := by
  refine ⟨immByte_eq_some, fun h => ?_⟩
  rw [← pack_fields w, h, immByte_pack]

theorem highByte_eq_zero_iff {x : Word} : highByte x = 0#8 ↔ x.toNat < 256 := by
  rw [← BitVec.toNat_inj, toNat_highByte, BitVec.toNat_zero]
  omega

theorem R8.exists_code_iff {c : BitVec 3} : (∃ r : R8, c = r.code) ↔ c.toNat ≠ 6 := by
  simp only [← R8.ofCode_eq_some_iff, ← Option.isSome_iff_exists]
  revert c; decide

theorem R16.exists_code_iff {c : BitVec 3} : (∃ rr : R16, c = rr.code) ↔ c.toNat < 4 := by
  simp only [← R16.ofCode_eq_some_iff, ← Option.isSome_iff_exists]
  revert c; decide

theorem exists_setWidth_iff {x : Word} : (∃ v : Byte, x = v.setWidth 16) ↔ x.toNat < 256 := by
  constructor
  · rintro ⟨v, rfl⟩
    have := v.isLt
    rw [BitVec.toNat_setWidth]
    omega
  · intro h
    refine ⟨lowByte x, BitVec.eq_of_toNat_eq ?_⟩
    rw [BitVec.toNat_setWidth, toNat_lowByte]
    omega

/-! ### What each format's decoder accepts (R52, R59) -/

theorem decodeZ_eq_ok_iff {w : CommandWord} {mk i : Instr} :
    decodeZ w mk = .ok i ↔ selField w = 0#3 ∧ immField w = 0#16 ∧ mk = i := by
  unfold decodeZ
  split <;> simp_all

theorem decodeV_eq_ok_iff {w : CommandWord} {mk : Byte → Instr} {i : Instr} :
    decodeV w mk = .ok i ↔ ∃ v : Byte, selField w = 0#3 ∧ immField w = v.setWidth 16 ∧ mk v = i := by
  simp only [← immByte_eq_some_iff]
  unfold decodeV
  split
  · split <;> simp_all
  · simp_all

theorem decodeRV_eq_ok_iff {w : CommandWord} {mk : R8 → Byte → Instr} {i : Instr} :
    decodeRV w mk = .ok i ↔
      ∃ (r : R8) (v : Byte), selField w = r.code ∧ immField w = v.setWidth 16 ∧ mk r v = i := by
  simp only [← immByte_eq_some_iff, ← R8.ofCode_eq_some_iff]
  unfold decodeRV
  split <;> simp_all

theorem decodeR_eq_ok_iff {w : CommandWord} {mk : R8 → Instr} {i : Instr} :
    decodeR w mk = .ok i ↔ ∃ r : R8, selField w = r.code ∧ immField w = 0#16 ∧ mk r = i := by
  simp only [← R8.ofCode_eq_some_iff]
  unfold decodeR
  split
  · split <;> simp_all
  · simp_all

theorem decodeP_eq_ok_iff {w : CommandWord} {mk : R16 → Instr} {i : Instr} :
    decodeP w mk = .ok i ↔ ∃ rr : R16, selField w = rr.code ∧ immField w = 0#16 ∧ mk rr = i := by
  simp only [← R16.ofCode_eq_some_iff]
  unfold decodeP
  split
  · split <;> simp_all
  · simp_all

theorem decodePW_eq_ok_iff {w : CommandWord} {mk : R16 → Word → Instr} {i : Instr} :
    decodePW w mk = .ok i ↔ ∃ (rr : R16) (x : Word), selField w = rr.code ∧ immField w = x ∧ mk rr x = i := by
  simp only [← R16.ofCode_eq_some_iff]
  unfold decodePW
  split <;> simp_all

/-! ### The decoder and the encoder are inverse -/

theorem encode_eq_pack (i : Instr) : encode i = pack (opNumber i) (selector i) (literal i) := by
  cases i <;> rfl

theorem encode_eq_iff {i : Instr} {w : CommandWord} :
    encode i = w ↔ opField w = opNumber i ∧ selField w = selector i ∧ immField w = literal i := by
  rw [encode_eq_pack, eq_comm, eq_pack_iff]

/-- The decoder reads an instruction from a word exactly when the word's three fields are that instruction's. -/
theorem decode_eq_ok_iff {w : CommandWord} {i : Instr} : decode w = .ok i ↔ encode i = w := by
  rw [encode_eq_iff]
  constructor
  · intro h
    unfold decode at h
    split at h
    case h_1 hop | h_2 hop | h_3 hop =>
      obtain ⟨r, v, hsel, himm, rfl⟩ := decodeRV_eq_ok_iff.mp h
      exact ⟨hop, hsel, himm⟩
    case h_4 hop =>
      obtain ⟨rr, x, hsel, himm, rfl⟩ := decodePW_eq_ok_iff.mp h
      exact ⟨hop, hsel, himm⟩
    case h_13 hop | h_14 hop =>
      obtain ⟨r, hsel, himm, rfl⟩ := decodeR_eq_ok_iff.mp h
      exact ⟨hop, hsel, himm⟩
    case h_15 hop | h_16 hop =>
      obtain ⟨hsel, himm, rfl⟩ := decodeZ_eq_ok_iff.mp h
      exact ⟨hop, hsel, himm⟩
    case h_17 hop | h_18 hop | h_19 hop =>
      obtain ⟨rr, hsel, himm, rfl⟩ := decodeP_eq_ok_iff.mp h
      exact ⟨hop, hsel, himm⟩
    case h_5 hop | h_6 hop | h_7 hop | h_8 hop | h_9 hop | h_10 hop | h_11 hop | h_12 hop | h_20 hop | h_21 hop =>
      obtain ⟨v, hsel, himm, rfl⟩ := decodeV_eq_ok_iff.mp h
      exact ⟨hop, hsel, himm⟩
    case h_22 => cases h
  · rintro ⟨hop, hsel, himm⟩
    unfold decode
    rw [hop]
    cases i with
    | ld r v | ldi r v | ldd r v => exact decodeRV_eq_ok_iff.mpr ⟨r, v, hsel, himm, rfl⟩
    | ldU16 rr x => exact decodePW_eq_ok_iff.mpr ⟨rr, x, hsel, himm, rfl⟩
    | inc r | dec r => exact decodeR_eq_ok_iff.mpr ⟨r, hsel, himm, rfl⟩
    | daa | cpl => exact decodeZ_eq_ok_iff.mpr ⟨hsel, himm, rfl⟩
    | addHl rr | incU16 rr | decU16 rr => exact decodeP_eq_ok_iff.mpr ⟨rr, hsel, himm, rfl⟩
    | add v | adc v | sub v | sbc v | and v | xor v | or v | cp v | addSp v | ldHl v =>
      exact decodeV_eq_ok_iff.mpr ⟨v, hsel, himm, rfl⟩

/-! ### The opcode map by fields (R52, R53) -/

/-- What a format asks of the numbers in `sel` and `imm` (R52, R54, R55). -/
def Format.Fits : Format → (sel imm : Nat) → Prop
  | .z, sel, imm => sel = 0 ∧ imm = 0
  | .v, sel, imm | .s, sel, imm => sel = 0 ∧ imm < 256
  | .rv, sel, imm => sel ≠ 6 ∧ imm < 256
  | .r, sel, imm => sel ≠ 6 ∧ imm = 0
  | .p, sel, imm => sel < 4 ∧ imm = 0
  | .pw, sel, _ => sel < 4

/-- The format of an operation number: that of its row in the opcode map, none where it is reserved. -/
def formatOf (op : Nat) : Option Format := opcodeTable[op]?.map OpcodeRow.format

theorem and_pack_allOnes (w : CommandWord) (sel : BitVec 3) (imm : Word) :
    w &&& pack (BitVec.allOnes 5) sel imm = pack (opField w) (selField w &&& sel) (immField w &&& imm) := by
  calc w &&& pack (BitVec.allOnes 5) sel imm
    _ = pack (opField w) (selField w) (immField w) &&& pack (BitVec.allOnes 5) sel imm := by rw [pack_fields]
    _ = pack (opField w &&& BitVec.allOnes 5) (selField w &&& sel) (immField w &&& imm) := by
      rw [pack, pack, BitVec.and_append, BitVec.and_append]; rfl
    _ = pack (opField w) (selField w &&& sel) (immField w &&& imm) := by rw [BitVec.and_allOnes]

theorem sel_and_7_eq_zero_iff {x : BitVec 3} : x &&& 7#3 = 0#3 ↔ x.toNat = 0 := by
  revert x; decide

theorem sel_and_4_eq_zero_iff {x : BitVec 3} : x &&& 4#3 = 0#3 ↔ x.toNat < 4 := by
  revert x; decide

theorem sel_eq_6_iff {x : BitVec 3} : x = 6#3 ↔ x.toNat = 6 :=
  BitVec.toNat_inj.symm

theorem imm_and_FFFF_eq_zero_iff {x : Word} : x &&& 0xFFFF#16 = 0#16 ↔ x.toNat = 0 := by
  rw [show 0xFFFF#16 = BitVec.allOnes 16 from rfl, BitVec.and_allOnes, ← BitVec.toNat_inj, BitVec.toNat_zero]

theorem imm_and_FF00_eq_zero_iff {x : Word} : x &&& 0xFF00#16 = 0#16 ↔ x.toNat < 256 := by
  have masked : x &&& 0xFF00#16 = joinBytes (highByte x) 0#8 :=
    calc x &&& 0xFF00#16
      _ = joinBytes (highByte x) (lowByte x) &&& joinBytes 0xFF#8 0x00#8 := by rw [joinBytes_highByte_lowByte]; rfl
      _ = joinBytes (highByte x) 0#8 := by
        rw [joinBytes_and, show 0xFF#8 = BitVec.allOnes 8 from rfl, BitVec.and_allOnes, BitVec.and_zero]
  rw [masked, ← highByte_eq_zero_iff, ← BitVec.toNat_inj, ← BitVec.toNat_inj, toNat_joinBytes]
  simp

theorem Format.mask_eq_pack (f : Format) : f.mask = pack (BitVec.allOnes 5) (selField f.mask) (immField f.mask) := by
  cases f <;> rfl

theorem Format.fits_iff_mask (f : Format) (sel : BitVec 3) (imm : Word) : f.Fits sel.toNat imm.toNat ↔
    sel &&& selField f.mask = 0#3 ∧ imm &&& immField f.mask = 0#16 ∧ (!(f.selectsR8 && sel == 6#3)) = true := by
  cases f <;>
    simp [Fits, mask, selectsR8, selField, immField, sel_and_7_eq_zero_iff, sel_and_4_eq_zero_iff, sel_eq_6_iff,
      imm_and_FFFF_eq_zero_iff, imm_and_FF00_eq_zero_iff]
  case rv | r => exact and_comm

/-- A word selects a row when its operation number is the row's and its other fields fit the row's format. -/
theorem OpcodeRow.selects_iff {row : OpcodeRow} {op : BitVec 5} (h : row.pattern = pack op 0#3 0#16) (w : CommandWord) :
    row.selects w = true ↔ opField w = op ∧ row.format.Fits (selField w).toNat (immField w).toNat := by
  have same_fields : w &&& row.format.mask = row.pattern ↔ opField w = op ∧
      selField w &&& selField row.format.mask = 0#3 ∧ immField w &&& immField row.format.mask = 0#16 := by
    conv_lhs => rw [h, Format.mask_eq_pack, and_pack_allOnes]
    rw [eq_pack_iff, opField_pack, selField_pack, immField_pack]
  rw [selects, Bool.and_eq_true, beq_iff_eq, same_fields, Format.fits_iff_mask, and_assoc, and_assoc]
  rfl

theorem pattern_of_getElem? {k : Nat} {row : OpcodeRow} (h : opcodeTable[k]? = some row) :
    k < 21 ∧ row.pattern = pack (BitVec.ofNat 5 k) 0#3 0#16 := by
  have table : ∀ k : Fin 21, opcodeTable[k].pattern = pack (BitVec.ofNat 5 k) 0#3 0#16 := by decide
  obtain ⟨hk, rfl⟩ := List.getElem?_eq_some_iff.mp h
  exact ⟨hk, table ⟨k, hk⟩⟩

/-- A word is legal when its operation number has a row and the other fields fit the format of that row. -/
theorem legalCommand_iff {w : CommandWord} : legalCommand w = true ↔
    ∃ f, formatOf (opField w).toNat = some f ∧ f.Fits (selField w).toNat (immField w).toNat := by
  simp only [legalCommand, List.any_eq_true, List.mem_iff_getElem?, formatOf, Option.map_eq_some_iff]
  constructor
  · rintro ⟨row, ⟨k, hrow⟩, hsel⟩
    obtain ⟨hk, hp⟩ := pattern_of_getElem? hrow
    obtain ⟨hop, hfits⟩ := (OpcodeRow.selects_iff hp w).mp hsel
    refine ⟨_, ⟨row, ?_, rfl⟩, hfits⟩
    rw [hop, BitVec.toNat_ofNat, Nat.mod_eq_of_lt (by omega), hrow]
  · rintro ⟨_, ⟨row, hrow, rfl⟩, hfits⟩
    refine ⟨row, ⟨_, hrow⟩, ?_⟩
    obtain ⟨_, hp⟩ := pattern_of_getElem? hrow
    rw [BitVec.ofNat_toNat, BitVec.setWidth_eq] at hp
    exact (OpcodeRow.selects_iff hp w).mpr ⟨rfl, hfits⟩

theorem formatOf_eq_none_of_reserved {op : Nat} (h : 21 ≤ op) : formatOf op = none := by
  rw [formatOf, List.getElem?_eq_none h, Option.map_none]

theorem legalCommand_iff_of_op {w : CommandWord} {op : BitVec 5} {f : Format} (hop : opField w = op)
    (hf : formatOf op.toNat = some f) :
    legalCommand w = true ↔ f.Fits (selField w).toNat (immField w).toNat := by
  simp [legalCommand_iff, hop, hf]

/-! ### The decoder accepts the legal words -/

theorem exists_decodeRV_iff {w : CommandWord} {mk : R8 → Byte → Instr} :
    (∃ i, decodeRV w mk = .ok i) ↔ Format.rv.Fits (selField w).toNat (immField w).toNat := by
  rw [Format.Fits, ← R8.exists_code_iff, ← exists_setWidth_iff]
  simp [decodeRV_eq_ok_iff]

theorem exists_decodeV_iff {w : CommandWord} {mk : Byte → Instr} :
    (∃ i, decodeV w mk = .ok i) ↔ Format.v.Fits (selField w).toNat (immField w).toNat := by
  rw [Format.Fits, ← exists_setWidth_iff]
  simp [decodeV_eq_ok_iff, ← BitVec.toNat_inj]

theorem exists_decodeR_iff {w : CommandWord} {mk : R8 → Instr} :
    (∃ i, decodeR w mk = .ok i) ↔ Format.r.Fits (selField w).toNat (immField w).toNat := by
  rw [Format.Fits, ← R8.exists_code_iff]
  simp [decodeR_eq_ok_iff, ← BitVec.toNat_inj]

theorem exists_decodeP_iff {w : CommandWord} {mk : R16 → Instr} :
    (∃ i, decodeP w mk = .ok i) ↔ Format.p.Fits (selField w).toNat (immField w).toNat := by
  rw [Format.Fits, ← R16.exists_code_iff]
  simp [decodeP_eq_ok_iff, ← BitVec.toNat_inj]

theorem exists_decodePW_iff {w : CommandWord} {mk : R16 → Word → Instr} :
    (∃ i, decodePW w mk = .ok i) ↔ Format.pw.Fits (selField w).toNat (immField w).toNat := by
  rw [Format.Fits, ← R16.exists_code_iff]
  simp [decodePW_eq_ok_iff]

theorem exists_decodeZ_iff {w : CommandWord} {mk : Instr} :
    (∃ i, decodeZ w mk = .ok i) ↔ Format.z.Fits (selField w).toNat (immField w).toNat := by
  simp [decodeZ_eq_ok_iff, ← BitVec.toNat_inj, Format.Fits]

theorem legalCommand_iff_exists_decode {w : CommandWord} : legalCommand w = true ↔ ∃ i, decode w = .ok i := by
  unfold decode
  split
  case h_22 =>
    have hop : 21 ≤ (opField w).toNat := by
      simp only [imp_false] at *
      bv_omega
    simp [legalCommand_iff, formatOf_eq_none_of_reserved hop]
  case h_1 hop | h_2 hop | h_3 hop => exact (legalCommand_iff_of_op hop rfl).trans exists_decodeRV_iff.symm
  case h_4 hop => exact (legalCommand_iff_of_op hop rfl).trans exists_decodePW_iff.symm
  case h_13 hop | h_14 hop => exact (legalCommand_iff_of_op hop rfl).trans exists_decodeR_iff.symm
  case h_15 hop | h_16 hop => exact (legalCommand_iff_of_op hop rfl).trans exists_decodeZ_iff.symm
  case h_17 hop | h_18 hop | h_19 hop => exact (legalCommand_iff_of_op hop rfl).trans exists_decodeP_iff.symm
  case h_5 hop | h_6 hop | h_7 hop | h_8 hop | h_9 hop | h_10 hop | h_11 hop | h_12 hop | h_20 hop | h_21 hop =>
    exact (legalCommand_iff_of_op hop rfl).trans exists_decodeV_iff.symm

/-! ### The illegal words (R60) -/

/-- The fields of the words that R60 lists as illegal. -/
def IllegalFields (op sel imm : Nat) : Prop :=
  0x15 ≤ op ∨
  (op ∈ [0x00, 0x01, 0x02, 0x0C, 0x0D] ∧ sel = 6) ∨
  (op ∈ [0x03, 0x10, 0x11, 0x12] ∧ 4 ≤ sel) ∨
  (op ∈ [0x04, 0x05, 0x06, 0x07, 0x08, 0x09, 0x0A, 0x0B, 0x0E, 0x0F, 0x13, 0x14] ∧ sel ≠ 0) ∨
  (op ∈ [0x00, 0x01, 0x02, 0x04, 0x05, 0x06, 0x07, 0x08, 0x09, 0x0A, 0x0B, 0x13, 0x14] ∧ 256 ≤ imm) ∨
  (op ∈ [0x0C, 0x0D, 0x0E, 0x0F, 0x10, 0x11, 0x12] ∧ imm ≠ 0)

theorem illegalFields_iff_not_fits (op sel imm : Nat) :
    IllegalFields op sel imm ↔ ¬ ∃ f, formatOf op = some f ∧ f.Fits sel imm := by
  rcases Nat.lt_or_ge op 21 with hop | hop
  · interval_cases op <;> simp [IllegalFields, formatOf, opcodeTable, Format.Fits] <;> omega
  · simp [IllegalFields, formatOf_eq_none_of_reserved hop, hop]

theorem legalCommand_eq_false_iff {w : CommandWord} : legalCommand w = false ↔
    IllegalFields (w.toNat / 2 ^ 19) (w.toNat / 2 ^ 16 % 8) (w.toNat % 2 ^ 16) := by
  rw [illegalFields_iff_not_fits, ← toNat_opField, ← toNat_selField, ← toNat_immField, ← legalCommand_iff,
    Bool.not_eq_true]

theorem decode_error_of_illegal {w : CommandWord} (h : legalCommand w = false) : ∃ why, decode w = .error why := by
  cases hdec : decode w with
  | ok i => rw [legalCommand_iff_exists_decode.mpr ⟨i, hdec⟩] at h; cases h
  | error why => exact ⟨why, rfl⟩

theorem legalCommand_iff_existsUnique_encode {w : CommandWord} : legalCommand w = true ↔ ∃! i, encode i = w := by
  have unique {i j : Instr} (hi : encode i = w) (hj : encode j = w) : j = i :=
    Except.ok.inj ((decode_eq_ok_iff.mpr hj).symm.trans (decode_eq_ok_iff.mpr hi))
  simp only [legalCommand_iff_exists_decode, decode_eq_ok_iff]
  exact ⟨fun ⟨i, hi⟩ => ⟨i, hi, fun _ hj => unique hi hj⟩, ExistsUnique.exists⟩

/-- Settles O12: the table, the encoder and the decoder select the words whose fields fit the format of their operation
number, and R60 lists the fields that do not. -/
theorem legalWordsAreExactlyTheEncodings : Obligations.LegalWordsAreExactlyTheEncodings := by
  refine ⟨fun _ => legalCommand_iff_existsUnique_encode, fun _ => legalCommand_iff_exists_decode,
    fun _ => legalCommand_eq_false_iff, fun w s rest h => ?_⟩
  obtain ⟨why, hdec⟩ := decode_error_of_illegal h
  exact ⟨why, (step_setPending_cons ..).trans (runRequest_command_error hdec _)⟩

/-! ### Selector codes (R54, R55) -/

theorem R8.toNat_code (r : R8) : r.code.toNat = Claims.r8Code r := by
  cases r <;> rfl

theorem R16.toNat_code (rr : R16) : rr.code.toNat = Claims.r16Code rr := by
  cases rr <;> rfl

theorem toNat_encode_ld (r : R8) (v : Byte) :
    (encode (.ld r v)).toNat = 0x000000 + 0x10000 * Claims.r8Code r + v.toNat := by
  rw [encode_eq_pack, toNat_pack, opNumber, selector, literal, R8.toNat_code, BitVec.toNat_setWidth_of_le (by decide)]
  simp [Nat.mul_comm]

theorem toNat_encode_ldU16 (rr : R16) (x : Word) :
    (encode (.ldU16 rr x)).toNat = 0x180000 + 0x10000 * Claims.r16Code rr + x.toNat := by
  rw [encode_eq_pack, toNat_pack, opNumber, selector, literal, R16.toNat_code]
  simp [Nat.mul_comm]

theorem decode_ofNat {i : Instr} {n : Nat} (h : (encode i).toNat = n) : decode (BitVec.ofNat 24 n) = .ok i := by
  rw [decode_eq_ok_iff, ← h, BitVec.ofNat_toNat, BitVec.setWidth_eq]

theorem legalCommand_ld_reserved (v : Byte) : legalCommand (BitVec.ofNat 24 (0x060000 + v.toNat)) = false := by
  rw [legalCommand_eq_false_iff, BitVec.toNat_ofNat]
  have op : (0x060000 + v.toNat) % 2 ^ 24 / 2 ^ 19 = 0 := by omega
  have sel : (0x060000 + v.toNat) % 2 ^ 24 / 2 ^ 16 % 8 = 6 := by omega
  rw [op, sel]
  exact .inr (.inl ⟨List.mem_cons_self, rfl⟩)

/-- Settles O56: each word is the encoding of its instruction, and the one with code 6 is on the list of R60. -/
theorem selectorCodesNameTheRegisters : Obligations.SelectorCodesNameTheRegisters := by
  intro v x
  have ld (r : R8) := decode_ofNat (toNat_encode_ld r v)
  have ldU16 (rr : R16) := decode_ofNat (toNat_encode_ldU16 rr x)
  have reserved (i : Instr) : decode (BitVec.ofNat 24 (0x000000 + 0x10000 * 6 + v.toNat)) ≠ .ok i := by
    intro h
    have legal := legalCommand_iff_exists_decode.mpr ⟨i, h⟩
    exact Bool.false_ne_true ((legalCommand_ld_reserved v).symm.trans legal)
  exact ⟨ld .b, ld .c, ld .d, ld .e, ld .h, ld .l, ld .a, reserved, ldU16 .bc, ldU16 .de, ldU16 .hl, ldU16 .sp,
    fun r => by rw [toNat_encode_ld, Nat.zero_add], fun rr => toNat_encode_ldU16 rr x⟩

end Sys2Proof
end

section
/-! PROOFS. Register-port writes by the identifiers of R30: what a legal one does (R61), and which are refused (R62). -/

namespace Sys2Proof.Machine

/-! ### Identifiers and data -/

theorem View.toNat_id_lt (v : View) : v.id.toNat < 14 := by
  cases v <;> decide

theorem View.isByte_iff (v : View) : v.isByte = true ↔ v.id.toNat < 8 := by
  cases v <;> decide

theorem View.ofId_reserved {id : ViewId} (h : 14 ≤ id.toNat) : View.ofId id = none := by
  cases hv : View.ofId id with
  | none => rfl
  | some v =>
    have := View.toNat_id_lt v
    rw [View.id_of_ofId hv] at this
    omega

theorem decodeRegWrite_id (v : View) (data : Word) :
    decodeRegWrite v.id data = if v.isByte = true ∧ 256 ≤ data.toNat then .error .highByteSet else .ok v := by
  have high : data.extractLsb' 8 8 = 0#8 ↔ data.toNat < 256 := highByte_eq_zero_iff
  simp [decodeRegWrite, high]

theorem decodeRegWrite_eq_ok_iff {id : ViewId} {data : Word} {v : View} :
    decodeRegWrite id data = .ok v ↔ v.id = id ∧ (v.isByte = true → data.toNat < 256) := by
  constructor
  · intro h
    obtain rfl := View.id_of_ofId (View.ofId_of_decodeRegWrite h)
    simp_all [decodeRegWrite_id]
  · rintro ⟨rfl, h⟩
    simp_all [decodeRegWrite_id]

/-! ### Legal writes -/

theorem step_regWrite {id : ViewId} {data : Word} {v : View} (h : decodeRegWrite id data = .ok v) (s : State)
    (rest : List Request) :
    step (s.setPending (.regWrite id data :: rest)) = .next ((s.writeView v data).setPending rest) := by
  rw [step_setPending_cons, runRequest_regWrite_ok h, State.writeView_setPending]

/-- A byte extended by zeros is legal data for every view, and one that takes the low byte takes that byte. -/
theorem step_regWrite_byte {s : State} {view : View} {put : Byte → State}
    (h : ∀ data, s.writeView view data = put (lowByte data)) (v : Byte) (rest : List Request) :
    step (s.setPending (.regWrite view.id (v.setWidth 16) :: rest)) = .next ((put v).setPending rest) := by
  have legal : (v.setWidth 16).toNat < 256 := exists_setWidth_iff.mp ⟨v, rfl⟩
  rw [step_regWrite (decodeRegWrite_eq_ok_iff.mpr ⟨rfl, fun _ => legal⟩), h, lowByte_setWidth]

theorem step_regWrite_word {s t : State} {view : View} {w : Word} (wide : view.isByte = false)
    (h : s.writeView view w = t) (rest : List Request) :
    step (s.setPending (.regWrite view.id w :: rest)) = .next (t.setPending rest) := by
  have legal : view.isByte = true → w.toNat < 256 := fun byte => absurd (wide.symm.trans byte) Bool.false_ne_true
  rw [step_regWrite (decodeRegWrite_eq_ok_iff.mpr ⟨rfl, legal⟩), h]

/-- Settles O8: the identifier names the view, the data is legal for it, and the write is that of the register file. -/
theorem registerPortWriteExecutes : Obligations.RegisterPortWriteExecutes :=
  fun s v w rest =>
    ⟨step_regWrite_byte (view := .b) (put := ({ s with b := · })) (fun _ => rfl) v rest,
    step_regWrite_byte (view := .c) (put := ({ s with c := · })) (fun _ => rfl) v rest,
    step_regWrite_byte (view := .d) (put := ({ s with d := · })) (fun _ => rfl) v rest,
    step_regWrite_byte (view := .e) (put := ({ s with e := · })) (fun _ => rfl) v rest,
    step_regWrite_byte (view := .h) (put := ({ s with h := · })) (fun _ => rfl) v rest,
    step_regWrite_byte (view := .l) (put := ({ s with l := · })) (fun _ => rfl) v rest,
    step_regWrite_byte (view := .f) (put := fun x => { s with f := Flags.ofByte x }) (fun _ => rfl) v rest,
    step_regWrite_byte (view := .a) (put := ({ s with a := · })) (fun _ => rfl) v rest,
    step_regWrite_word (view := .bc) rfl (s.writeR16_bc w) rest,
    step_regWrite_word (view := .de) rfl (s.writeR16_de w) rest,
    step_regWrite_word (view := .hl) rfl (s.writeR16_hl w) rest,
    step_regWrite_word (view := .sp) rfl rfl rest,
    step_regWrite_word (view := .af) rfl (s.writeView_af w) rest,
    step_regWrite_word (view := .pc) rfl rfl rest⟩

/-! ### Illegal writes and reads -/

theorem decodeRegWrite_error_of_illegal {id : ViewId} {data : Word}
    (h : 14 ≤ id.toNat ∨ (id.toNat < 8 ∧ 256 ≤ data.toNat)) : ∃ why, decodeRegWrite id data = .error why := by
  cases hdec : decodeRegWrite id data with
  | error why => exact ⟨why, rfl⟩
  | ok v =>
    obtain ⟨rfl, legal⟩ := decodeRegWrite_eq_ok_iff.mp hdec
    have := View.toNat_id_lt v
    rw [View.isByte_iff] at legal
    omega

/-- Settles O10: an accepted write names one of the 14 views with data that fits it, and a reserved identifier names
none. -/
theorem registerPortRefusesReservedViews : Obligations.RegisterPortRefusesReservedViews := by
  constructor
  · intro s id data rest illegal
    obtain ⟨why, hdec⟩ := decodeRegWrite_error_of_illegal illegal
    exact ⟨why, (step_setPending_cons ..).trans (runRequest_regWrite_error hdec _)⟩
  · intro s id reserved
    rw [State.portRead, View.ofId_reserved reserved, Option.map_none]

end Sys2Proof.Machine
end

section
/-! PROOFS. The execution of requests (R70, R71): a step runs the command that waits first, a legal request always
completes, and the requests that wait stay legal (R74); and the flags that an operation keeps (R77). -/

namespace Sys2Proof.Machine

/-! ### The command that is run -/

theorem State.withFetchWord_toNat (s : State) (w : CommandWord) :
    s.withFetchWord 24 w.toNat = s.setPending (.command w :: s.pending) := by
  rw [State.withFetchWord, Nat.mod_eq_of_lt w.isLt, BitVec.ofNat_toNat, BitVec.setWidth_eq]

theorem step_command {w : CommandWord} {i : Instr} (h : decode w = .ok i) (s : State) (rest : List Request) :
    step (s.setPending (.command w :: rest)) = exec i (s.setPending rest) := by
  rw [step_setPending_cons, runRequest_command_ok h]

/-- Settles O15: a command that waits first is run when it decodes, and `withFetchWord` puts its word first. -/
theorem stepExecutesTheDecodedCommand : Obligations.StepExecutesTheDecodedCommand := by
  refine ⟨fun s w i rest h => step_command h s rest, fun s w i h => ?_⟩
  rw [State.withFetchWord_toNat, step_command h, State.setPending_self]

/-! ### Legal requests complete -/

theorem View.exists_id_iff {id : ViewId} : (∃ v : View, v.id = id) ↔ id.toNat < 14 := by
  constructor
  · rintro ⟨v, rfl⟩
    exact View.toNat_id_lt v
  · intro h
    have named : ∀ id : ViewId, id.toNat < 14 → (View.ofId id).isSome = true := by decide
    obtain ⟨v, hv⟩ := Option.isSome_iff_exists.mp (named id h)
    exact ⟨v, View.id_of_ofId hv⟩

theorem legalRegWrite_iff {id : ViewId} {data : Word} :
    legalRegWrite id data = true ↔ id.toNat < 14 ∧ (id.toNat < 8 → data.toNat < 256) := by
  have high : data.extractLsb' 8 8 = 0#8 ↔ data.toNat < 256 := highByte_eq_zero_iff
  simp only [legalRegWrite, Bool.and_eq_true, Bool.or_eq_true, decide_eq_true_eq, beq_iff_eq, high]
  omega

/-- The legality of a register-port write (R61, R62) is acceptance by the decoder of such writes. -/
theorem legalRegWrite_iff_exists_decode {id : ViewId} {data : Word} :
    legalRegWrite id data = true ↔ ∃ v, decodeRegWrite id data = .ok v := by
  rw [legalRegWrite_iff, ← View.exists_id_iff]
  constructor
  · rintro ⟨⟨v, rfl⟩, fits⟩
    exact ⟨v, decodeRegWrite_eq_ok_iff.mpr ⟨rfl, fun byte => fits ((View.isByte_iff v).mp byte)⟩⟩
  · rintro ⟨v, hdec⟩
    obtain ⟨rfl, fits⟩ := decodeRegWrite_eq_ok_iff.mp hdec
    exact ⟨⟨v, rfl⟩, fun byte => fits ((View.isByte_iff v).mpr byte)⟩

theorem exec_completes (i : Instr) (s : State) : ∃ t, exec i s = .next t := by
  obtain ⟨w, fl, hexec, -, -⟩ := followsRow i
  exact ⟨_, hexec s⟩

theorem runRequest_completes {r : Request} (legal : r.wellFormed = true) (s : State) :
    ∃ t, runRequest r s = .next t := by
  cases r with
  | command w =>
    obtain ⟨i, hdec⟩ := legalCommand_iff_exists_decode.mp legal
    rw [runRequest_command_ok hdec]
    exact exec_completes i s
  | regWrite id data =>
    obtain ⟨v, hdec⟩ := legalRegWrite_iff_exists_decode.mp legal
    exact ⟨_, runRequest_regWrite_ok hdec s⟩
  | reset => exact ⟨_, runRequest_reset s⟩

/-- Settles O18: a legal request is accepted by its decoder, what it decodes to completes, and no request touches the
stream behind it. -/
theorem everyLegalRequestCompletes : Obligations.EveryLegalRequestCompletes := by
  intro s r rest legal
  obtain ⟨t, hrun⟩ := runRequest_completes legal (s.setPending rest)
  exact ⟨t, hrun, runRequest_pending hrun⟩

/-! ### The stream stays legal -/

theorem State.legal_reset : State.reset.Legal :=
  fun _ waiting => absurd waiting List.not_mem_nil

theorem State.Legal.present {s : State} (hs : s.Legal) {rs : List Request} (hrs : ∀ r ∈ rs, r.wellFormed = true) :
    (s.present rs).Legal :=
  List.forall_mem_append.mpr ⟨hs, hrs⟩

theorem State.Legal.step {s t : State} (hs : s.Legal) (h : step s = .next t) : t.Legal := by
  intro r waiting
  rw [step_pending h] at waiting
  exact hs r (List.mem_of_mem_tail waiting)

/-- Settles O20: a step leaves the tail of the stream, whatever request it ran and when it ran none. -/
theorem legalStreamStaysLegal : Obligations.LegalStreamStaysLegal :=
  fun _ _ => State.Legal.step

/-- Settles O21: nothing waits after reset, and what is presented waits behind what waited before. -/
theorem legalStreamAtReset : Obligations.LegalStreamAtReset :=
  ⟨State.legal_reset, fun _ _ hs hrs => hs.present hrs⟩

/-! ### The flags outside the mask -/

/-- Settles O46: an operation writes F by its row, which keeps the old flags outside the mask. -/
theorem flagsOutsideTheMaskAreKept : Obligations.FlagsOutsideTheMaskAreKept := by
  intro i s
  obtain ⟨w, fl, hexec, -, hfl⟩ := followsRow i
  exact ⟨_, hexec s, hfl.kept s⟩

end Sys2Proof.Machine
end

section
/-! PROOFS. The load family (R80 to R83): the word of a register and a literal, reads of a pair after the writes of
`ldi` and `ldd`, and the four operations. -/

namespace Sys2Proof.Machine

open Sys2Proof.Claims

/-! ### The word of an 8-bit register and an 8-bit literal (format `RV`, R52) -/

theorem toNat_pack_r8_literal (op : BitVec 5) (r : R8) (v : Byte) :
    (pack op r.code (v.setWidth 16)).toNat = op.toNat * 2 ^ 19 + 2 ^ 16 * r8Code r + v.toNat := by
  rw [toNat_pack, R8.toNat_code, BitVec.toNat_setWidth_of_le (by decide), Nat.mul_comm (r8Code r)]

/-! ### Reads after the writes of the loads -/

/-- No two 16-bit registers share a half. -/
theorem State.readR16_writeR16_of_ne (s : State) {rr rr' : R16} (h : rr' ≠ rr) (w : Word) :
    (s.writeR16 rr w).readR16 rr' = s.readR16 rr' := by
  cases rr <;> cases rr' <;> simp [State.readR16] at h ⊢

/-- HL as a register write left it: the written half, if any, is the new one. -/
theorem State.toNat_readR16_hl_writeR8 (s : State) (r : R8) (v : Byte) :
    ((s.writeR8 r v).readR16 .hl).toNat =
      256 * (if r = .h then v else s.h).toNat + (if r = .l then v else s.l).toNat := by
  rw [State.toNat_readR16_hl]
  cases r <;> rfl

theorem halfOf_hl_eq_false {r : R8} (hh : r ≠ .h) (hl : r ≠ .l) : halfOf .hl r = false := by
  cases r <;> simp [halfOf] at hh hl ⊢

/-- A write of HL leaves every other register as the register write before it did. -/
theorem State.readR8_writeR8_writeR16_hl (s : State) (r : R8) (v : Byte) (w : Word) {r' : R8} (hh : r' ≠ .h)
    (hl : r' ≠ .l) : ((s.writeR8 r v).writeR16 .hl w).readR8 r' = if r' = r then v else s.readR8 r' := by
  rw [State.readR8_writeR16_of_not_half _ (halfOf_hl_eq_false hh hl), State.readR8_writeR8]

/-! ### The four operations -/

/-- Settles O24: `ld` is a register write, which is read back in that register alone. -/
theorem ldWritesTheRegister : Obligations.LdWritesTheRegister := by
  intro s r v
  refine ⟨toNat_encode_ld r v, _, exec_ld r v s, ?_, fun r' hne => ?_, s.writeR8_f r v, s.writeR8_sp r v,
    s.writeR8_pc r v, s.writeR8_pending r v⟩
  · rw [State.readR8_writeR8, if_pos rfl]
  · rw [State.readR8_writeR8, if_neg hne]

/-- Settles O25: the sum is written to HL after the register write and reads HL as that write left it. -/
theorem ldiLoadsThenIncrementsHl : Obligations.LdiLoadsThenIncrementsHl := by
  intro s r v h₁ l₁
  refine ⟨toNat_pack_r8_literal 0x01#5 r v, _, exec_ldi r v s, ?_,
    fun r' hh hl => s.readR8_writeR8_writeR16_hl r v _ hh hl, s.writeR8_f r v, s.writeR8_sp r v, s.writeR8_pc r v,
    s.writeR8_pending r v⟩
  rw [State.readR16_writeR16_same, BitVec.toNat_add, State.toNat_readR16_hl_writeR8]
  rfl

/-- Settles O26: as for `ldi`, with the difference, which is the integer difference modulo 2^16. -/
theorem lddLoadsThenDecrementsHl : Obligations.LddLoadsThenDecrementsHl := by
  intro s r v h₁ l₁
  refine ⟨toNat_pack_r8_literal 0x02#5 r v, _, exec_ldd r v s, ?_,
    fun r' hh hl => s.readR8_writeR8_writeR16_hl r v _ hh hl, s.writeR8_f r v, s.writeR8_sp r v, s.writeR8_pc r v,
    s.writeR8_pending r v⟩
  rw [State.readR16_writeR16_same, ← diff16_eq, coe_toNat_diff16, State.toNat_readR16_hl_writeR8]
  rfl

/-- Settles O27: `ld_u16` is a write of a 16-bit register, which shares no half with another. -/
theorem ldU16WritesThePair : Obligations.LdU16WritesThePair :=
  fun s rr w => ⟨toNat_encode_ldU16 rr w, _, exec_ldU16 rr w s, s.readR16_writeR16_same rr w,
    fun _ hne => s.readR16_writeR16_of_ne hne w, s.writeR16_a rr w, s.writeR16_f rr w, s.writeR16_pc rr w,
    s.writeR16_pending rr w⟩

end Sys2Proof.Machine
end

section
/-! PROOFS. The 8-bit arithmetic and logic family (R90 to R99): the words of its two formats, each flag test and each
flag value on natural numbers, the ten operations, and the two-step addition of R91's note. -/

namespace Sys2Proof.Machine

open Sys2Proof.Claims

/-! ### The words of the formats `V` and `R` (R52) -/

theorem toNat_pack_literal (op : BitVec 5) (v : Byte) :
    (pack op 0#3 (v.setWidth 16)).toNat = op.toNat * 2 ^ 19 + v.toNat := by
  rw [toNat_pack, BitVec.toNat_setWidth_of_le (by decide), BitVec.toNat_zero, Nat.zero_mul, Nat.add_zero]

theorem toNat_pack_r8 (op : BitVec 5) (r : R8) :
    (pack op r.code 0#16).toNat = op.toNat * 2 ^ 19 + 2 ^ 16 * r8Code r := by
  rw [toNat_pack, R8.toNat_code, Nat.mul_comm (r8Code r), BitVec.toNat_zero, Nat.add_zero]

/-! ### The flag tests (R101) -/

theorem isZero_eq_decide (v : Byte) : isZero v = decide (v = 0#8) :=
  rfl

theorem isZero_sum8 (x y : Byte) (cin : Nat) :
    isZero (sum8 x y cin) = decide ((x.toNat + y.toNat + cin) % 2 ^ 8 = 0) := by
  rw [isZero_eq_decide, decide_eq_decide, ← BitVec.toNat_inj, toNat_sum8]
  rfl

theorem isZero_diff8 (x y : Byte) : isZero (diff8 x y) = decide (x = y) := by
  rw [isZero_eq_decide, diff8_eq, decide_eq_decide, BitVec.sub_eq_iff_eq_add, BitVec.zero_add]

theorem isZero_xor (x y : Byte) : isZero (x ^^^ y) = decide (x = y) := by
  rw [isZero_eq_decide, decide_eq_decide, BitVec.xor_eq_zero_iff]

theorem isZero_or (x y : Byte) : isZero (x ||| y) = decide (x = 0#8 ∧ y = 0#8) := by
  rw [isZero_eq_decide, decide_eq_decide, BitVec.or_eq_zero_iff]

theorem halfCarry8_eq (x y : Byte) (cin : Nat) :
    halfCarry8 x y cin = decide (x.toNat % 16 + y.toNat % 16 + cin > 0xF) := by
  rw [halfCarry8, nibble_eq, nibble_eq]

theorem halfBorrow8_eq (x y : Byte) (cin : Nat) :
    halfBorrow8 x y cin = decide (x.toNat % 16 < y.toNat % 16 + cin) := by
  rw [halfBorrow8, nibble_eq, nibble_eq]

/-- The carry-in as R76 writes it, 1 or 0. -/
theorem toNat_carry (c : Bool) : c.toNat = if c then 1 else 0 :=
  Bool.cond_eq_ite c 1 0

/-! ### The flag values, on natural numbers -/

theorem addFlags_eq (x y : Byte) (cin : Nat) :
    addFlags x y cin =
      { z := decide ((x.toNat + y.toNat + cin) % 2 ^ 8 = 0), n := false,
        h := decide (x.toNat % 16 + y.toNat % 16 + cin > 0xF), c := decide (x.toNat + y.toNat + cin > 0xFF) } := by
  rw [addFlags, isZero_sum8, halfCarry8_eq, carry8]

theorem sbcFlags_eq (x y : Byte) (cin : Nat) :
    sbcFlags x y cin =
      { z := decide ((x.toNat + y.toNat + cin) % 2 ^ 8 = 0), n := true,
        h := decide (x.toNat % 16 < y.toNat % 16 + cin), c := decide (x.toNat + y.toNat + cin > 0xFF) } := by
  rw [sbcFlags, isZero_sum8, halfBorrow8_eq, carry8]

theorem subFlags_eq (x y : Byte) :
    subFlags x y =
      { z := decide (x = y), n := true,
        h := decide (x.toNat % 16 < y.toNat % 16), c := decide (x.toNat < y.toNat) } := by
  rw [subFlags, isZero_diff8, halfBorrow8_eq, borrow8, Nat.add_zero]

/-- The sum with 1 is zero only from 0xFF, and leaves the nibble only from 0xF (R98). -/
theorem incFlags_eq (x : Byte) (old : Flags) :
    incFlags x old =
      { z := decide (x.toNat = 0xFF), n := false, h := decide (x.toNat % 16 = 0xF), c := old.c } := by
  have zero : (x.toNat + 1 + 0) % 2 ^ 8 = 0 ↔ x.toNat = 0xFF := by omega
  have half : x.toNat % 16 + 1 % 16 + 0 > 0xF ↔ x.toNat % 16 = 0xF := by omega
  rw [incFlags, isZero_sum8, halfCarry8_eq]
  exact Flags.ext (decide_eq_decide.mpr zero) rfl (decide_eq_decide.mpr half) rfl

/-- The difference with 1 is zero only from 0x01, and borrows from the nibble only at 0x0 (R99). -/
theorem decFlags_eq (x : Byte) (old : Flags) :
    decFlags x old =
      { z := decide (x.toNat = 0x01), n := true, h := decide (x.toNat % 16 = 0), c := old.c } := by
  have zero : x = 1#8 ↔ x.toNat = 0x01 := BitVec.toNat_inj.symm
  have half : x.toNat % 16 < 1 % 16 + 0 ↔ x.toNat % 16 = 0 := by omega
  rw [decFlags, isZero_diff8, halfBorrow8_eq]
  exact Flags.ext (decide_eq_decide.mpr zero) rfl (decide_eq_decide.mpr half) rfl

/-! ### Addition and subtraction -/

/-- Settles O28: `add` is the sum without a carry-in, with that sum's flags. -/
theorem addResultAndFlags : Obligations.AddResultAndFlags := by
  intro s v t
  refine ⟨toNat_pack_literal 0x04#5 v, ?_⟩
  rw [exec_add, addFlags_eq]
  rfl

/-- Settles O29: `adc` is the sum with the old carry, as the number 1 or 0, with that sum's flags. -/
theorem adcResultAndFlags : Obligations.AdcResultAndFlags := by
  intro s v cin t
  refine ⟨toNat_pack_literal 0x05#5 v, ?_⟩
  rw [exec_adc, addFlags_eq, toNat_carry]
  rfl

/-- Settles O30: `sub` is the wrapping difference, which is zero exactly for equal operands. -/
theorem subResultAndFlags : Obligations.SubResultAndFlags := by
  intro s v
  refine ⟨toNat_pack_literal 0x06#5 v, ?_⟩
  rw [exec_sub, subFlags_eq]
  rfl

/-- Settles O31: `sbc` is the sum of `adc`, with the sum's carry and zero and the nibble borrow test. -/
theorem sbcAddsAndSetsSubtraction : Obligations.SbcAddsAndSetsSubtraction := by
  intro s v cin t
  refine ⟨toNat_pack_literal 0x07#5 v, ?_⟩
  rw [exec_sbc, sbcFlags_eq, toNat_carry]
  rfl

/-- Settles O35: `cp` writes the flags of `sub` and nothing else. -/
theorem cpSetsFlagsOnly : Obligations.CpSetsFlagsOnly := by
  intro s v
  refine ⟨toNat_pack_literal 0x0B#5 v, ?_⟩
  rw [exec_cp, subFlags_eq]
  rfl

/-! ### Logic -/

/-- Settles O32: `and` tests its result for zero and forces half_carry. -/
theorem andResultAndFlags : Obligations.AndResultAndFlags := by
  intro s v
  refine ⟨toNat_pack_literal 0x08#5 v, ?_⟩
  rw [exec_and, logicFlags, isZero_eq_decide]
  rfl

/-- Settles O33: the exclusive OR is zero exactly for equal operands. -/
theorem xorResultAndFlags : Obligations.XorResultAndFlags := by
  intro s v
  refine ⟨toNat_pack_literal 0x09#5 v, ?_⟩
  rw [exec_xor, logicFlags, isZero_xor]
  rfl

/-- Settles O34: the OR is zero exactly when both operands are. -/
theorem orResultAndFlags : Obligations.OrResultAndFlags := by
  intro s v
  refine ⟨toNat_pack_literal 0x0A#5 v, ?_⟩
  rw [exec_or, logicFlags, isZero_or]
  rfl

/-! ### Increment and decrement of a register -/

/-- A write of a register and of F is read back in that register. -/
theorem State.readR8_setFlags_writeR8_same (s : State) (r : R8) (v : Byte) (f : Flags) :
    ((s.writeR8 r v).setFlags f).readR8 r = v := by
  rw [State.readR8_setFlags, State.readR8_writeR8, if_pos rfl]

/-- A write of a register and of F leaves every other register. -/
theorem State.readR8_setFlags_writeR8_of_ne (s : State) {r r' : R8} (hne : r' ≠ r) (v : Byte) (f : Flags) :
    ((s.writeR8 r v).setFlags f).readR8 r' = s.readR8 r' := by
  rw [State.readR8_setFlags, State.readR8_writeR8, if_neg hne]

/-- Settles O36: `inc` writes the wrapping sum with 1 into its register alone, and its flags keep the old carry. -/
theorem incResultAndFlags : Obligations.IncResultAndFlags := by
  intro s r x
  refine ⟨toNat_pack_r8 0x0C#5 r, _, exec_inc r s, ?_, fun _ hne => s.readR8_setFlags_writeR8_of_ne hne _ _,
    incFlags_eq _ _, s.writeR8_sp r _, s.writeR8_pc r _, s.writeR8_pending r _⟩
  rw [State.readR8_setFlags_writeR8_same, BitVec.toNat_add]
  rfl

/-- Settles O37: `dec` writes the integer difference with 1 modulo 2^8 into its register alone, and its flags keep the
old carry. -/
theorem decResultAndFlags : Obligations.DecResultAndFlags := by
  intro s r x
  refine ⟨toNat_pack_r8 0x0D#5 r, _, exec_dec r s, ?_, fun _ hne => s.readR8_setFlags_writeR8_of_ne hne _ _,
    decFlags_eq _ _, s.writeR8_sp r _, s.writeR8_pc r _, s.writeR8_pending r _⟩
  rw [State.readR8_setFlags_writeR8_same, ← diff8_eq, coe_toNat_diff8]
  rfl

/-! ### The two-step addition (R91's note) -/

/-- The carry as the byte that the second step adds. -/
theorem ofNat_toNat_carry (c : Bool) : BitVec.ofNat 8 c.toNat = if c then 1#8 else 0#8 := by
  cases c <;> rfl

theorem toNat_carryByte (c : Bool) : (if c then 1#8 else 0#8 : Byte).toNat = c.toNat := by
  cases c <;> rfl

/-- A first step that overflows leaves at most 0xFE, so adding a carry to it does not overflow. -/
theorem twoStep_overflows_exclusive (x y : Byte) (c : Bool) :
    (decide (x.toNat + y.toNat > 0xFF) && decide ((x + y).toNat + c.toNat > 0xFF)) = false := by
  have := x.isLt; have := y.isLt; have := c.toNat_le
  rw [BitVec.toNat_add, ← Bool.decide_and, decide_eq_false_iff_not]
  omega

/-- One of the two steps overflows exactly when the one-step sum does. -/
theorem carry8_eq_twoStep (x y : Byte) (c : Bool) :
    carry8 x y c.toNat = (decide (x.toNat + y.toNat > 0xFF) || decide ((x + y).toNat + c.toNat > 0xFF)) := by
  have := x.isLt; have := y.isLt; have := c.toNat_le
  rw [carry8, BitVec.toNat_add, ← Bool.decide_or, decide_eq_decide]
  omega

/-- Settles O50: the two overflows exclude each other, and `adc` and `sbc` share the one-step sum and its carry, which
are those of the two steps. -/
theorem twoStepAdditionAgrees : Obligations.TwoStepAdditionAgrees := by
  intro s v cin o₁ o₂
  have overflow : o₂ = decide ((s.a + v).toNat + s.f.c.toNat > 0xFF) := by rw [← toNat_carryByte]
  have result : sum8 s.a v s.f.c.toNat = (s.a + v) + cin := by rw [sum8_eq, ofNat_toNat_carry]
  rw [overflow]
  exact ⟨twoStep_overflows_exclusive s.a v s.f.c, _, _, exec_adc v s, exec_sbc v s, result, rfl,
    carry8_eq_twoStep s.a v s.f.c, rfl⟩

end Sys2Proof.Machine
end

section
/-! PROOFS. Decimal adjust and complement (R110, R111): the two conditions, the correction and the corrected A on
natural numbers, the complement as a difference, and the two operations. -/

namespace Sys2Proof.Machine

theorem eq_ofNat_of_toNat_eq {v : Byte} {n : Nat} (h : v.toNat = n) : v = BitVec.ofNat 8 n := by
  rw [← h, BitVec.ofNat_toNat, BitVec.setWidth_eq]

/-! ### The correction of `daa` -/

theorem daaHigh_iff (x : Byte) (f : Flags) : daaHigh x f = true ↔ f.c = true ∨ x.toNat > 0x9F := by
  rw [daaHigh, Bool.or_eq_true, decide_eq_true_iff]

theorem daaLow_iff (x : Byte) (f : Flags) : daaLow x f = true ↔ f.h = true ∨ x.toNat % 16 > 0x09 := by
  rw [daaLow, Bool.or_eq_true, decide_eq_true_iff, nibble_eq]

/-- The correction is at most 0x66, so the byte holds the exact sum of its two terms. -/
theorem toNat_daaAdjust (x : Byte) (f : Flags) :
    (daaAdjust x f).toNat =
      (if f.c = true ∨ x.toNat > 0x9F then 0x60 else 0) + (if f.h = true ∨ x.toNat % 16 > 0x09 then 0x06 else 0) := by
  simp only [daaAdjust, daaHigh_iff, daaLow_iff, BitVec.toNat_ofNat]
  apply Nat.mod_eq_of_lt
  split <;> split <;> decide

/-! ### The corrected A and its flags -/

theorem toNat_diff8 (x y : Byte) : (diff8 x y).toNat = (x.toNat + 256 - y.toNat) % 2 ^ 8 := by
  rw [diff8_eq, BitVec.toNat_sub', ← Nat.add_sub_assoc y.isLt.le]

theorem toNat_daaResult (x : Byte) (f : Flags) :
    (daaResult x f).toNat =
      if f.n then (x.toNat + 256 - (daaAdjust x f).toNat) % 2 ^ 8
      else (x.toNat + (daaAdjust x f).toNat) % 2 ^ 8 := by
  rw [daaResult]
  split
  · exact toNat_diff8 x (daaAdjust x f)
  · exact toNat_sum8 x (daaAdjust x f) 0

theorem isZero_eq_decide_toNat (v : Byte) : isZero v = decide (v.toNat = 0) := by
  rw [isZero_eq_decide, decide_eq_decide, ← BitVec.toNat_inj]
  rfl

theorem daaFlags_eq (x : Byte) (f : Flags) :
    daaFlags x f =
      { z := decide ((daaResult x f).toNat = 0), n := f.n, h := f.h,
        c := decide ((daaResult x f).toNat > 0x99) } := by
  rw [daaFlags, isZero_eq_decide_toNat]

/-- Settles O38: the corrected A on natural numbers is the value `t` of the rule, and z and c are read off it. -/
theorem daaResultAndFlags : Obligations.DaaResultAndFlags := by
  intro s a adj t
  have result : (daaResult s.a s.f).toNat = t := by rw [toNat_daaResult, toNat_daaAdjust]
  refine ⟨rfl, ?_⟩
  rw [exec_daa, daaFlags_eq, result, eq_ofNat_of_toNat_eq result]
  rfl

/-! ### Complement -/

theorem toNat_xor_0xFF (x : Byte) : (x ^^^ 0xFF#8).toNat = 0xFF - x.toNat := by
  have complement : x ^^^ 0xFF#8 = ~~~x := BitVec.xor_allOnes
  rw [complement, BitVec.toNat_not]

/-- Settles O39: the exclusive OR with 0xFF is the difference from 0xFF. -/
theorem cplComplementsA : Obligations.CplComplementsA := by
  intro s
  refine ⟨rfl, ?_⟩
  rw [exec_cpl, eq_ofNat_of_toNat_eq (toNat_xor_0xFF s.a), cplFlags]
  rfl

end Sys2Proof.Machine
end

section
/-! PROOFS. The 16-bit arithmetic family (R120 to R125): the word of its register format, the half-carry formula, the
sign-extended literal, the flag values on natural numbers, and the five operations. -/

namespace Sys2Proof.Machine

open Sys2Proof.Claims

/-! ### The word of the format `P` (R52) -/

theorem toNat_pack_r16 (op : BitVec 5) (rr : R16) :
    (pack op rr.code 0#16).toNat = op.toNat * 2 ^ 19 + 2 ^ 16 * r16Code rr := by
  rw [toNat_pack, R16.toNat_code, Nat.mul_comm (r16Code rr), BitVec.toNat_zero, Nat.add_zero]

/-! ### The half-carry formula (R125) -/

theorem half16_eq_nibbles (x y : Word) : half16 x y = decide (nibble11to8 x + nibble11to8 y > 15) :=
  half16_eq x y

/-- The mask 0xFF00 clears only bits that the formula's own mask clears. -/
theorem and_FF00_and_0F00 (x : Word) : x &&& 0xFF00#16 &&& 0x0F00#16 = x &&& 0x0F00#16 :=
  BitVec.and_assoc x 0xFF00#16 0x0F00#16

theorem half16_and_FF00 (x y : Word) : half16 (x &&& 0xFF00#16) (y &&& 0xFF00#16) = half16 x y := by
  rw [half16, and_FF00_and_0F00, and_FF00_and_0F00, half16]

/-- Settles O49: the model's test is the formula, whose masked addends are the two nibbles in place; the carry out of
the low byte of 0x0FFF + 0x0001 is the rule's own example. -/
theorem sixteenBitHalfCarryFormula : Obligations.SixteenBitHalfCarryFormula :=
  ⟨fun x y => ⟨rfl, half16_eq_nibbles x y, (half16_and_FF00 x y).symm⟩, by decide⟩

/-- The formula on the numbers that two words hold. -/
theorem half16_eq_h16 (x y : Word) : half16 x y = h16 x.toNat y.toNat := by
  simp only [half16, h16, BitVec.ofNat_toNat, BitVec.setWidth_eq]

/-! ### The sign-extended literal (R58) -/

theorem toNat_sext16 (e : Byte) : (sext16 e).toNat = signExtended e :=
  sext16_toNat e

theorem signExtended_of_nonneg {e : Byte} (h : e.toNat < 128) : signExtended e = e.toNat :=
  if_pos h

theorem signExtended_of_neg {e : Byte} (h : 128 ≤ e.toNat) : signExtended e = e.toNat + 0xFF00 :=
  if_neg h.not_gt

theorem nibble11to8_sext16_of_nonneg {e : Byte} (h : e.toNat < 128) : nibble11to8 (sext16 e) = 0 := by
  rw [nibble11to8, toNat_sext16, signExtended_of_nonneg h]
  omega

theorem nibble11to8_sext16_of_neg {e : Byte} (h : 128 ≤ e.toNat) : nibble11to8 (sext16 e) = 15 := by
  rw [nibble11to8, toNat_sext16, signExtended_of_neg h]
  omega

/-! ### The flag values, on natural numbers -/

theorem addHlFlags_eq (x y : Word) (old : Flags) :
    addHlFlags x y old =
      { z := old.z, n := false, h := h16 x.toNat y.toNat, c := decide (x.toNat + y.toNat > 0xFFFF) } := by
  rw [addHlFlags, half16_eq_h16, carry16]

theorem spFlags_eq (x : Word) (e : Byte) :
    spFlags x (sext16 e) =
      { z := false, n := false, h := h16 x.toNat (signExtended e),
        c := decide (x.toNat + signExtended e > 0xFFFF) } := by
  rw [spFlags, half16_eq_h16, carry16, toNat_sext16]

/-! ### The operations on a selected 16-bit register -/

@[simp] theorem State.readR16_setFlags (s : State) (f : Flags) (rr : R16) :
    (s.setFlags f).readR16 rr = s.readR16 rr := by
  cases rr <;> rfl

/-- Settles O40: the wrapping sum is written to HL alone, and F keeps the old z. -/
theorem addHlResultAndFlags : Obligations.AddHlResultAndFlags := by
  intro s rr hl q
  refine ⟨toNat_pack_r16 0x10#5 rr, _, exec_addHl rr s, ?_, fun rr' hne => ?_, addHlFlags_eq _ _ _,
    rfl, rfl, rfl, rfl, rfl, rfl, rfl⟩
  · rw [State.readR16_setFlags, State.readR16_writeR16_same, BitVec.toNat_add]
  · rw [State.readR16_setFlags, State.readR16_writeR16_of_ne s hne]

/-- Settles O41: `inc_u16` writes the wrapping sum with 1 into its register, which shares no half with another. -/
theorem incU16Result : Obligations.IncU16Result := by
  intro s rr
  refine ⟨toNat_pack_r16 0x11#5 rr, _, exec_incU16 rr s, ?_, fun _ hne => s.readR16_writeR16_of_ne hne _,
    s.writeR16_a rr _, s.writeR16_f rr _, s.writeR16_pc rr _, s.writeR16_pending rr _⟩
  rw [State.readR16_writeR16_same, BitVec.toNat_add]
  rfl

/-- Settles O42: as for `inc_u16`, with the difference, which is the integer difference modulo 2^16. -/
theorem decU16Result : Obligations.DecU16Result := by
  intro s rr
  refine ⟨toNat_pack_r16 0x12#5 rr, _, exec_decU16 rr s, ?_, fun _ hne => s.readR16_writeR16_of_ne hne _,
    s.writeR16_a rr _, s.writeR16_f rr _, s.writeR16_pc rr _, s.writeR16_pending rr _⟩
  rw [State.readR16_writeR16_same, ← diff16_eq, coe_toNat_diff16]
  rfl

/-! ### The operations relative to SP -/

theorem add_sext16_eq_ofNat (x : Word) (e : Byte) : x + sext16 e = BitVec.ofNat 16 (x.toNat + signExtended e) := by
  rw [← sum16_eq, sum16, toNat_sext16]

/-- Settles O43: `add_sp` writes the narrowed sum to SP, with the flags of the exact sum. -/
theorem addSpResultAndFlags : Obligations.AddSpResultAndFlags := by
  intro s e sp q
  refine ⟨toNat_pack_literal 0x13#5 e, ?_⟩
  rw [exec_addSp, add_sext16_eq_ofNat, spFlags_eq]
  rfl

/-- Settles O44: `ld_hl` writes the two bytes of the narrowed sum to H and L, with the flags of the exact sum. -/
theorem ldHlResultAndFlags : Obligations.LdHlResultAndFlags := by
  intro s e sp q t
  refine ⟨toNat_pack_literal 0x14#5 e, ?_⟩
  rw [exec_ldHl, State.writeR16_hl, add_sext16_eq_ofNat, BitVec.toNat_ofNat, spFlags_eq]
  rfl

/-! ### The flags by the sign of the literal (R123) -/

/-- A literal that is not negative has no bit in 11 to 8, so the nibble sum stays below 16. -/
theorem spFlags_of_nonneg (x : Word) {e : Byte} (h : e.toNat < 128) :
    spFlags x (sext16 e) = ⟨false, false, false, decide (x.toNat + e.toNat > 0xFFFF)⟩ := by
  have half : ¬ nibble11to8 x + 0 > 15 := by
    rw [nibble11to8]
    omega
  rw [spFlags, half16_eq_nibbles, nibble11to8_sext16_of_nonneg h, decide_eq_false half, carry16, toNat_sext16,
    signExtended_of_nonneg h]

/-- A negative literal has all of bits 11 to 8 set, and adding it subtracts `256 - e` modulo 2^16. -/
theorem spFlags_of_neg (x : Word) {e : Byte} (h : 128 ≤ e.toNat) :
    spFlags x (sext16 e) =
      ⟨false, false, decide (nibble11to8 x ≠ 0), decide (256 - e.toNat ≤ x.toNat)⟩ := by
  have half : nibble11to8 x + 15 > 15 ↔ nibble11to8 x ≠ 0 := by omega
  have carry : x.toNat + (e.toNat + 0xFF00) > 0xFFFF ↔ 256 - e.toNat ≤ x.toNat := by omega
  rw [spFlags, half16_eq_nibbles, nibble11to8_sext16_of_neg h, carry16, toNat_sext16, signExtended_of_neg h,
    decide_eq_decide.mpr half, decide_eq_decide.mpr carry]

/-- Settles O54: both operations write one sum and one F, which the sign of the literal decides as R123 says. -/
theorem spRelativeFormsAgree : Obligations.SpRelativeFormsAgree := by
  intro s e
  refine ⟨_, _, exec_addSp e s, exec_ldHl e s, ?_, rfl, fun nonneg => ?_, fun neg => ?_⟩
  · rw [State.readR16_setFlags, State.readR16_writeR16_same]
    rfl
  · rw [State.setFlags_f, spFlags_of_nonneg s.sp nonneg]
    exact ⟨rfl, rfl⟩
  · rw [State.setFlags_f, spFlags_of_neg s.sp neg]
    exact ⟨rfl, rfl⟩

end Sys2Proof.Machine
end

section
/-! PROOFS. The reset request (R150, R151): what a step that takes it does, and the registers it leaves. -/

namespace Sys2Proof.Machine

/-- Of the old state only the requests still waiting survive a reset (R151). -/
theorem State.resetRegisters_eq_setPending (s : State) : s.resetRegisters = State.reset.setPending s.pending := rfl

/-- The old state does not occur in the result: R150's "whatever the state was". -/
theorem step_reset (s : State) (rest : List Request) :
    step (s.setPending (.reset :: rest)) = .next (State.reset.setPending rest) := by
  rw [step_setPending_cons, runRequest_reset, State.resetRegisters_eq_setPending, State.setPending_pending]

/-- Settles O16: the step gives the state after reset with the later requests, and the stream is no register. -/
theorem resetRequestZeroesTheState : Obligations.ResetRequestZeroesTheState := by
  intro s rest
  refine ⟨_, step_reset s rest, fun r => ?_, rfl, rfl, rfl, rfl⟩
  rw [State.readR8_setPending, State.readR8_reset]

end Sys2Proof.Machine
end

section
/-! PROOFS. The decoder against the encoder (R60), the worked words, and the number of legal words: a word is its three
fields, so the legal words of one operation number are the pairs of a selector and a literal that fit its format. -/

namespace Sys2Proof

/-- Settles O11: the decoder reads an instruction exactly when the three fields of the word are that instruction's. -/
theorem decodeAndEncodeAgree : Obligations.DecodeAndEncodeAgree :=
  fun _ _ => decode_eq_ok_iff

/-- Settles O13: each worked word is the encoding of its request, and on the six illegal words the decoder is
evaluated. -/
theorem workedEncodingsDecode : Obligations.WorkedEncodingsDecode := by
  have decodes {i : Instr} {w : CommandWord} (h : encode i = w) : decode w = .ok i := decode_eq_ok_iff.mpr h
  exact ⟨decodes rfl, decodes rfl, decodes rfl, decodes rfl, decodes rfl, decodes rfl, decodes rfl, decodes rfl,
    decodes rfl, decodes rfl, decodes rfl, decodes rfl, decodes rfl, decodes rfl, decodes rfl, decodes rfl,
    rfl, rfl, rfl, rfl, rfl, rfl⟩

/-! ### Counting the legal words (30_encoding.md section 6) -/

/-- A word and its three fields (R51), the fields as numbers of their widths. -/
def fieldsEquiv : CommandWord ≃ Fin (2 ^ 5) × Fin (2 ^ 3) × Fin (2 ^ 16) where
  toFun w := ((opField w).toFin, (selField w).toFin, (immField w).toFin)
  invFun fields := pack (.ofFin fields.1) (.ofFin fields.2.1) (.ofFin fields.2.2)
  left_inv := pack_fields
  right_inv _ := by simp only [opField_pack, selField_pack, immField_pack]

/-- The selector codes that fit a format. -/
def Format.sels : Format → Finset (Fin (2 ^ 3))
  | .z | .v | .s => {0}
  | .rv | .r => {6}ᶜ
  | .p | .pw => {0, 1, 2, 3}

/-- The number of literals that fit a format; they are the numbers below it. -/
def Format.immCount : Format → Nat
  | .z | .r | .p => 1
  | .v | .s | .rv => 2 ^ 8
  | .pw => 2 ^ 16

theorem Format.fits_iff {f : Format} {sel : Fin (2 ^ 3)} {imm : Fin (2 ^ 16)} :
    f.Fits sel imm ↔ sel ∈ f.sels ∧ imm.val < f.immCount := by
  have one : sel.val = 0 ↔ sel ∈ ({0} : Finset (Fin (2 ^ 3))) := by revert sel; decide
  have named : sel.val ≠ 6 ↔ sel ∈ ({6}ᶜ : Finset (Fin (2 ^ 3))) := by revert sel; decide
  have pairs : sel.val < 4 ↔ sel ∈ ({0, 1, 2, 3} : Finset (Fin (2 ^ 3))) := by revert sel; decide
  cases f with
  | z => exact and_congr one Nat.lt_one_iff.symm
  | v | s => exact and_congr one Iff.rfl
  | rv => exact and_congr named Iff.rfl
  | r => exact and_congr named Nat.lt_one_iff.symm
  | p => exact and_congr pairs Nat.lt_one_iff.symm
  | pw => exact pairs.trans (and_iff_left imm.isLt).symm

theorem Format.immCount_le (f : Format) : f.immCount ≤ 2 ^ 16 := by
  cases f <;> decide

/-- The operands that fit a format are chosen field by field. -/
theorem Format.card_fits (f : Format) :
    Nat.card { x : Fin (2 ^ 3) × Fin (2 ^ 16) // f.Fits x.1 x.2 } = f.sels.card * f.immCount := by
  have fitting (x : Fin (2 ^ 3) × Fin (2 ^ 16)) :
      x ∈ f.sels ×ˢ Finset.univ.filter (·.val < f.immCount) ↔ f.Fits x.1 x.2 := by
    simp [Format.fits_iff]
  rw [Nat.subtype_card _ fitting, Finset.card_product, Fin.card_filter_val_lt, min_eq_right f.immCount_le]

/-- The operands that make a legal word with an operation number: they fit the format of its row. -/
def OperandsFit (op : Fin (2 ^ 5)) (operands : Fin (2 ^ 3) × Fin (2 ^ 16)) : Prop :=
  ∃ f, formatOf op = some f ∧ f.Fits operands.1 operands.2

theorem exists_decode_iff_operandsFit {w : CommandWord} :
    (∃ i, decode w = .ok i) ↔ OperandsFit (fieldsEquiv w).1 (fieldsEquiv w).2 :=
  legalCommand_iff_exists_decode.symm.trans legalCommand_iff

/-- The number of legal words with an operation number. -/
def legalWordsOf (op : Nat) : Nat :=
  match formatOf op with
  | some f => f.sels.card * f.immCount
  | none => 0

theorem card_operandsFit (op : Fin (2 ^ 5)) : Nat.card { x // OperandsFit op x } = legalWordsOf op := by
  unfold OperandsFit legalWordsOf
  cases formatOf op with
  | none => simp
  | some f => simpa using f.card_fits

/-- Settles O14: through the fields the accepted words are, for each operation number, the operands that fit its format,
and the counts sum to the spec's number. -/
theorem decoderAcceptsTheCountedWords : Obligations.DecoderAcceptsTheCountedWords := by
  calc Nat.card { w : CommandWord // ∃ i, decode w = .ok i }
    _ = Nat.card { fields : Fin (2 ^ 5) × Fin (2 ^ 3) × Fin (2 ^ 16) // OperandsFit fields.1 fields.2 } :=
      Nat.card_congr (fieldsEquiv.subtypeEquiv fun _ => exists_decode_iff_operandsFit)
    _ = Nat.card (Σ op, { operands // OperandsFit op operands }) :=
      Nat.card_congr (Equiv.subtypeProdEquivSigmaSubtype OperandsFit)
    _ = ∑ op : Fin (2 ^ 5), legalWordsOf op := by
      rw [Nat.card_sigma]
      exact Finset.sum_congr rfl fun op _ => card_operandsFit op
    _ = 270108 := by decide

end Sys2Proof
end

section
/-! PROOFS. What stops a run (R79, R130, R131): a step holds the state when nothing waits, completes a legal request and
refuses an illegal one. -/

namespace Sys2Proof.Machine

/-- Settles O17: a step with an empty stream answers the state it was given. -/
theorem idleStepHoldsTheState : Obligations.IdleStepHoldsTheState :=
  fun _ => step_idle rfl

theorem decodeRegWrite_error_of_not_legal {id : ViewId} {data : Word} (h : legalRegWrite id data = false) :
    ∃ why, decodeRegWrite id data = .error why := by
  rw [← Bool.not_eq_true, legalRegWrite_iff] at h
  exact decodeRegWrite_error_of_illegal (by omega)

theorem runRequest_refuses {r : Request} (illegal : r.wellFormed = false) (s : State) :
    ∃ why, runRequest r s = .refused why := by
  cases r with
  | command w =>
    obtain ⟨why, hdec⟩ := decode_error_of_illegal illegal
    exact ⟨_, runRequest_command_error hdec s⟩
  | regWrite id data =>
    obtain ⟨why, hdec⟩ := decodeRegWrite_error_of_not_legal illegal
    exact ⟨_, runRequest_regWrite_error hdec s⟩
  | reset => cases illegal

/-- A request is refused exactly when it is illegal (R131). -/
theorem runRequest_refused_iff {r : Request} {s : State} :
    (∃ why, runRequest r s = .refused why) ↔ r.wellFormed = false := by
  refine ⟨fun ⟨why, refused⟩ => ?_, fun illegal => runRequest_refuses illegal s⟩
  by_contra legal
  obtain ⟨t, completed⟩ := runRequest_completes (Bool.eq_true_of_not_eq_false legal) s
  cases refused.symm.trans completed

/-- Settles O19: no fault exists, an idle step is not refused, and any other step is that of the request that waits
first. -/
theorem onlyIllegalRequestsAreRefused : Obligations.OnlyIllegalRequestsAreRefused := by
  refine ⟨(fun _ x => nomatch x), fun s => ?_⟩
  cases hs : s.pending with
  | nil => simp [step_idle hs]
  | cons r rest =>
    rw [step_cons hs, runRequest_refused_iff]
    constructor
    · intro illegal
      exact ⟨r, rest, rfl, illegal⟩
    · rintro ⟨_, _, ⟨⟩, illegal⟩
      exact illegal

theorem step_completes {s : State} (hs : s.Legal) : ∃ t, step s = .next t := by
  cases hp : s.pending with
  | nil => exact ⟨s, step_idle hp⟩
  | cons r rest =>
    have legal : r.wellFormed = true := hs r (hp ▸ List.mem_cons_self)
    rw [step_cons hp]
    exact runRequest_completes legal _

/-- Settles O22, by induction on the length: the first step completes and leaves a legal stream. -/
theorem legalRunsNeverStop : Obligations.LegalRunsNeverStop := by
  intro n
  induction n with
  | zero => exact fun s _ => ⟨s, rfl⟩
  | succ n ih =>
    intro s hs
    obtain ⟨t, hstep⟩ := step_completes hs
    rw [RunsSafely, run_succ_of_next hstep]
    exact ih t (hs.step hstep)

end Sys2Proof.Machine
end

section
/-! PROOFS. Relations between operations (95_test_vectors.md PR-6 to PR-8). -/

namespace Sys2Proof.Machine

/-- Settles O51: `adc` adds the cleared carry, which is 0, and `sub` writes F as `cp` does. -/
theorem adcWithoutCarryIsAddAndCpIsSub : Obligations.AdcWithoutCarryIsAddAndCpIsSub := by
  intro s v
  refine ⟨?_, _, _, exec_cp v s, exec_sub v s, rfl⟩
  rw [exec_adc, exec_add, ← sum8_zero]
  rfl

/-- `or 0x00` writes A back and gives F the flags of A, so it does nothing to its own result. -/
theorem exec_or_zero (s : State) :
    exec (.or 0x00#8) s = .next (s.setFlags (logicFlags s.a false)) := by
  rw [exec_or, BitVec.or_zero]
  rfl

/-- Settles O52: `or 0x00` gives F the flags of A and keeps A, and the complement is its own inverse. -/
theorem orZeroIsIdempotentAndCplIsInvolutive : Obligations.OrZeroIsIdempotentAndCplIsInvolutive := by
  intro s
  refine ⟨⟨_, exec_or_zero s, rfl, exec_or_zero _⟩, _, _, exec_cpl s, exec_cpl _, ?_, rfl⟩
  calc s.a ^^^ 0xFF#8 ^^^ 0xFF#8
    _ = s.a := by rw [BitVec.xor_assoc, BitVec.xor_self, BitVec.xor_zero]

theorem State.writeR16_writeR16 (s : State) (rr : R16) (v w : Word) :
    (s.writeR16 rr v).writeR16 rr w = s.writeR16 rr w := by
  cases rr <;> rfl

theorem State.writeR16_readR16 (s : State) (rr : R16) : s.writeR16 rr (s.readR16 rr) = s := by
  cases rr <;> simp [State.writeR16, State.readR16]

theorem exec_decU16_writeR16_add_one (s : State) (rr : R16) :
    exec (.decU16 rr) (s.writeR16 rr (s.readR16 rr + 1#16)) = .next s := by
  rw [exec_decU16, State.readR16_writeR16_same, BitVec.add_sub_cancel, State.writeR16_writeR16,
    State.writeR16_readR16]

theorem exec_incU16_writeR16_sub_one (s : State) (rr : R16) :
    exec (.incU16 rr) (s.writeR16 rr (s.readR16 rr - 1#16)) = .next s := by
  rw [exec_incU16, State.readR16_writeR16_same, BitVec.sub_add_cancel, State.writeR16_writeR16,
    State.writeR16_readR16]

/-- Settles O53: each step writes back the value that the other read; `ldi` and `ldd` are such a step of HL after the
register write of `ld`. -/
theorem sixteenBitStepsUndoEachOther : Obligations.SixteenBitStepsUndoEachOther :=
  ⟨fun s rr => ⟨⟨_, exec_incU16 rr s, exec_decU16_writeR16_add_one s rr⟩,
      _, exec_decU16 rr s, exec_incU16_writeR16_sub_one s rr⟩,
    fun s r v => ⟨⟨_, exec_ldi r v s, exec_decU16_writeR16_add_one (s.writeR8 r v) .hl⟩,
      _, exec_ldd r v s, exec_incU16_writeR16_sub_one (s.writeR8 r v) .hl⟩⟩

end Sys2Proof.Machine
end

section
/-! PROOFS. Decimal arithmetic with `daa` (43_daa_cpl.md): on packed decimal operands the correction is 0x06 exactly
when the units carry or borrow. -/

namespace Sys2Proof.Machine

open Sys2Proof.Claims

theorem toNat_bcd {n : Nat} (h : n < 100) : (bcd n).toNat = 16 * (n / 10) + n % 10 := by
  rw [bcd, BitVec.toNat_ofNat]
  omega

/-- Where the result is a packed decimal number below 100, `daa` clears carry and its zero is the number's. -/
theorem daaFlags_of_daaResult_eq_bcd {x : Byte} {f : Flags} {n : Nat} (hn : n < 100) (h : daaResult x f = bcd n) :
    (daaFlags x f).c = false ∧ (daaFlags x f).z = decide (n = 0) := by
  rw [daaFlags_eq, h, toNat_bcd hn]
  exact ⟨decide_eq_false (by omega), decide_eq_decide.mpr (by omega)⟩

/-- The tens and the units are added apart: the byte sum does not overflow. -/
theorem toNat_bcd_add_bcd {x y : Nat} (h : x + y < 100) :
    (bcd x + bcd y).toNat = 16 * (x / 10 + y / 10) + (x % 10 + y % 10) := by
  rw [BitVec.toNat_add, toNat_bcd (by omega), toNat_bcd (by omega)]
  omega

/-- Packing keeps the order, so the byte difference does not borrow. -/
theorem toNat_bcd_sub_bcd {x y : Nat} (hx : x < 100) (h : y ≤ x) :
    (bcd x - bcd y).toNat = (16 * (x / 10) + x % 10) - (16 * (y / 10) + y % 10) := by
  have hy := toNat_bcd (n := y) (by omega)
  rw [BitVec.toNat_sub_of_le, toNat_bcd hx, hy]
  rw [BitVec.le_def, toNat_bcd hx, hy]
  omega

/-- After `add` the correction is 0x06 exactly when the units carry: their sum is then above 0x0F, which half_carry
shows, or a low nibble above 0x09. The 0x60 term is out, because the byte sum stays below 0xA0. -/
theorem toNat_daaAdjust_add_bcd {x y : Nat} (h : x + y < 100) :
    (daaAdjust (bcd x + bcd y) (addFlags (bcd x) (bcd y) 0)).toNat = if 9 < x % 10 + y % 10 then 0x06 else 0 := by
  have hx := toNat_bcd (n := x) (by omega)
  have hy := toNat_bcd (n := y) (by omega)
  rw [toNat_daaAdjust, addFlags_eq, toNat_bcd_add_bcd h, hx, hy]
  simp only [decide_eq_true_eq]
  rw [if_neg (by omega), Nat.zero_add]
  exact if_congr (by omega) rfl rfl

theorem daaResult_add_bcd {x y : Nat} (h : x + y < 100) :
    daaResult (bcd x + bcd y) (addFlags (bcd x) (bcd y) 0) = bcd (x + y) := by
  apply BitVec.eq_of_toNat_eq
  rw [toNat_daaResult, toNat_daaAdjust_add_bcd h, addFlags_eq, if_neg Bool.false_ne_true, toNat_bcd_add_bcd h,
    toNat_bcd h]
  split <;> omega

/-- After `sub` the correction is 0x06 exactly when the units borrow, which half_carry shows: without a borrow the low
nibble is a difference of two digits. The 0x60 term is out, because the byte difference is at most 0x99. -/
theorem toNat_daaAdjust_sub_bcd {x y : Nat} (hx : x < 100) (h : y ≤ x) :
    (daaAdjust (bcd x - bcd y) (subFlags (bcd x) (bcd y))).toNat = if x % 10 < y % 10 then 0x06 else 0 := by
  have hy := toNat_bcd (n := y) (by omega)
  rw [toNat_daaAdjust, subFlags_eq, toNat_bcd_sub_bcd hx h, toNat_bcd hx, hy]
  simp only [decide_eq_true_eq]
  rw [if_neg (by omega), Nat.zero_add]
  exact if_congr (by omega) rfl rfl

theorem daaResult_sub_bcd {x y : Nat} (hx : x < 100) (h : y ≤ x) :
    daaResult (bcd x - bcd y) (subFlags (bcd x) (bcd y)) = bcd (x - y) := by
  apply BitVec.eq_of_toNat_eq
  rw [toNat_daaResult, toNat_daaAdjust_sub_bcd hx h, subFlags_eq, if_pos rfl, toNat_bcd_sub_bcd hx h,
    toNat_bcd (Nat.lt_of_le_of_lt (Nat.sub_le x y) hx)]
  split <;> omega

/-- Settles O55: `daa` turns the byte sum and the byte difference into the packed decimal ones, and c and z are read off
a packed decimal number. -/
theorem daaCorrectsDecimalSumsAndDifferences : Obligations.DaaCorrectsDecimalSumsAndDifferences := by
  intro s x y hx hy ha
  constructor
  · intro h
    have result := daaResult_add_bcd h
    rw [← ha] at result
    exact ⟨_, _, exec_add (bcd y) s, exec_daa _, result, daaFlags_of_daaResult_eq_bcd h result⟩
  · intro h
    have result := daaResult_sub_bcd hx h
    rw [← ha] at result
    obtain ⟨carry, zero⟩ := daaFlags_of_daaResult_eq_bcd (by omega) result
    exact ⟨_, _, exec_sub (bcd y) s, exec_daa _, result, carry, zero.trans (decide_eq_decide.mpr (by omega))⟩

end Sys2Proof.Machine
end
